-- ==== Sys2Proof/Word.lean ====
section
/-! DEFINITION. The word types of the GT-880 (R5: little-endian, bit 0 least significant). -/
namespace Sys2Proof

/-- A byte of any memory. -/
abbrev Byte := BitVec 8
/-- A 16-bit halfword (table entries of R18 and R147). -/
abbrev Half := BitVec 16
/-- A 32-bit word: a register, a command word, an FP32 code. -/
abbrev Word := BitVec 32
/-- A 64-bit word: a digest, a seed, a 64-bit address. -/
abbrev DWord := BitVec 64

/-- Ceiling division; zero when the divisor is zero. -/
def ceilDiv (a b : Nat) : Nat := (a + b - 1) / b

/-- A counter of width `w` bits that holds at its largest value. -/
def satAdd (w : Nat) (a n : Nat) : Nat := min (a + n) (2 ^ w - 1)

/-- Bits `hi` down to `lo` of a natural number, numbered as R5 numbers them. -/
def bits (v hi lo : Nat) : Nat := (v / 2 ^ lo) % 2 ^ (hi + 1 - lo)

/-- Bit `i` of a natural number. -/
def bitAt (v i : Nat) : Bool := v / 2 ^ i % 2 == 1

end Sys2Proof
end

