-- ==== Sys2Proof/Syntax.lean ====
section
/-! DEFINITION. The commands of the GT-880: one constructor of `Instr` per row of the table, with the
row's operands. The twenty-two device commands (R216, R218) carry the fields of their command
words at their encoded widths; every other row carries what the outside world supplies with it. -/
namespace Sys2Proof

/-! ### Command words (R213 to R218) -/

/-- The header of a command, W0 to W2 (R214). -/
structure Hdr where
  lcore : BitVec 8
  slot : BitVec 8
  crec : Bool
  off : Word
  slack : BitVec 16
  gslot : BitVec 12
  deriving DecidableEq, Repr

/-- The tag word of a move-class command (R160, R218). -/
structure Tags where
  base : BitVec 16
  n1 : BitVec 9
  deriving DecidableEq, Repr

/-- An extension word EXT of a move-class command (R218). -/
structure Ext where
  rank : BitVec 16
  psp : Bool
  lcore : BitVec 8
  deriving DecidableEq, Repr

/-- MMA (R60, R218). `m1`, `n1` hold M−1 and N−1. -/
structure MmaCmd where
  hdr : Hdr
  afb : Byte
  bfb : Byte
  atexp : Byte
  btexp : Byte
  bank : Bool
  clr : Bool
  rmode : Bool
  m1 : BitVec 7
  n1 : BitVec 7
  k : BitVec 24
  aaddr : Word
  baddr : Word
  asaddr : Word
  bsaddr : Word
  srstream : Word
  chain : DWord
  koff : DWord
  roff : Word
  coff : Word
  deriving DecidableEq, Repr

/-- MEW (R80, R218): MMA's layout with W5 and W11 to W14 zero. -/
structure MewCmd where
  hdr : Hdr
  afb : Byte
  bfb : Byte
  atexp : Byte
  btexp : Byte
  bank : Bool
  clr : Bool
  rmode : Bool
  m1 : BitVec 7
  n1 : BitVec 7
  aaddr : Word
  baddr : Word
  asaddr : Word
  bsaddr : Word
  srstream : Word
  roff : Word
  coff : Word
  deriving DecidableEq, Repr

/-- LRA (R310 to R312, R218). -/
structure LraCmd where
  hdr : Hdr
  xfb : Byte
  dfb : Byte
  ufb : Byte
  bank : Bool
  clr : Bool
  rmode : Bool
  rank1 : BitVec 7
  m1 : BitVec 7
  n1 : BitVec 7
  k : BitVec 24
  xaddr : Word
  xsaddr : Word
  daddr : Word
  dsaddr : Word
  uaddr : Word
  usaddr : Word
  iaddr : Word
  srstream : Word
  roff : Word
  coff : Word
  tgen : BitVec 16
  xtexp : Byte
  dtexp : Byte
  utexp : Byte
  deriving DecidableEq, Repr

/-- One input stream of a VPROG (three words, R218). -/
structure InSlot where
  addr : Word
  saddr : Word
  fb : Byte
  texp : Byte
  bcast : BitVec 2
  deriving DecidableEq, Repr

/-- One output stream of a VPROG (two words, R218). -/
structure OutSlot where
  addr : Word
  fb : Byte
  rmode : Bool
  omode : Bool
  deriving DecidableEq, Repr

/-- VPROG (R86, R218). -/
structure VprogCmd where
  hdr : Hdr
  paddr : Word
  rows1 : BitVec 16
  cols1 : BitVec 16
  roff : Word
  coff : Word
  srstream : Word
  msrc : BitVec 2
  maddr : Word
  moff : Word
  i0 : InSlot
  i1 : InSlot
  i2 : InSlot
  i3 : InSlot
  o0 : OutSlot
  o1 : OutSlot
  deriving DecidableEq, Repr

/-- QNT (R130, R218). -/
structure QntCmd where
  hdr : Hdr
  saddr : Word
  rows1 : BitVec 16
  cols1 : BitVec 16
  daddr : Word
  dsaddr : Word
  dfb : Byte
  dtexp : Byte
  rmode : Bool
  omode : Bool
  rot : BitVec 2
  rside : Bool
  ssrc : BitVec 2
  stat : Bool
  sfmt : BitVec 4
  srstream : Word
  seaddr : Word
  staddr : Word
  roff : Word
  coff : Word
  deriving DecidableEq, Repr

/-- DQT (R136, R218). -/
structure DqtCmd where
  hdr : Hdr
  saddr : Word
  rows1 : BitVec 16
  cols1 : BitVec 16
  daddr : Word
  ssaddr : Word
  sfb : Byte
  stexp : Byte
  rmode : Bool
  omode : Bool
  rot : BitVec 2
  rside : Bool
  dfmt : BitVec 4
  srstream : Word
  roff : Word
  coff : Word
  deriving DecidableEq, Repr

/-- VRED (R124, R218). -/
structure VredCmd where
  hdr : Hdr
  saddr : Word
  ssaddr : Word
  rows1 : BitVec 16
  cols1 : BitVec 16
  daddr : Word
  sfb : Byte
  stexp : Byte
  dfmt : BitVec 4
  op : BitVec 4
  axis : Bool
  deriving DecidableEq, Repr

/-- MOVE (R156, R218). -/
structure MoveCmd where
  hdr : Hdr
  sspace : BitVec 3
  dspace : BitVec 3
  form : BitVec 3
  esize : BitVec 2
  shard : Bool
  saddr : DWord
  sext : Ext
  daddr : DWord
  dext : Ext
  spitch : Word
  dpitch : Word
  rows1 : BitVec 16
  rowbytes : Word
  tags : Tags
  pattern : Word
  deriving DecidableEq, Repr

/-- GATH (R167, R218). -/
structure GathCmd where
  hdr : Hdr
  iaddr : Word
  daddr : Word
  dpitch : Word
  nidx1 : BitVec 16
  tgen : BitVec 16
  tbase : DWord
  tstride : Word
  trows : Word
  rbytes : Word
  tags : Tags
  deriving DecidableEq, Repr

/-- DIG (R218). -/
structure DigCmd where
  hdr : Hdr
  space : BitVec 3
  jrn : Bool
  addr : DWord
  ext : Ext
  pitch : Word
  rows1 : BitVec 16
  rowbytes : Word
  raddr : Word
  tags : Tags
  deriving DecidableEq, Repr

/-- COLL (R331, R218). -/
structure CollCmd where
  hdr : Hdr
  cop : BitVec 4
  fb : Byte
  group : BitVec 16
  saddr : DWord
  sspace : BitVec 3
  dspace : BitVec 3
  daddr : DWord
  count : Word
  tags : Tags
  deriving DecidableEq, Repr

/-- WAIT (R219). -/
structure WaitCmd where
  hdr : Hdr
  ctr : BitVec 6
  value : Word
  deriving DecidableEq, Repr

/-- SIGNAL (R219). -/
structure SignalCmd where
  hdr : Hdr
  tgt : BitVec 4
  ctr : BitVec 6
  value : Word
  haddr : DWord
  rank : BitVec 16
  deriving DecidableEq, Repr

/-- PHASE (R440). -/
structure PhaseCmd where
  hdr : Hdr
  opt : BitVec 4
  iclass : BitVec 3
  lead : Word
  deriving DecidableEq, Repr

/-- DECIDE (R272 to R274). -/
structure DecideCmd where
  hdr : Hdr
  group : BitVec 16
  faddr : Word
  fcore : BitVec 8
  deriving DecidableEq, Repr

/-- SNAP (R392). -/
structure SnapCmd where
  hdr : Hdr
  epoch : Word
  dtgt : BitVec 4
  deriving DecidableEq, Repr

/-- A command of the stream, decoded (R216). SAVE and RESTORE may stand in a stream's words; there
they are illegal (R227), so only their header and CTX bit matter. -/
inductive Cmd where
  | mma (c : MmaCmd)
  | mew (c : MewCmd)
  | lra (c : LraCmd)
  | vprog (c : VprogCmd)
  | qnt (c : QntCmd)
  | dqt (c : DqtCmd)
  | vred (c : VredCmd)
  | move (c : MoveCmd)
  | gath (c : GathCmd)
  | dig (c : DigCmd)
  | coll (c : CollCmd)
  | wait (c : WaitCmd)
  | signal (c : SignalCmd)
  | phase (c : PhaseCmd)
  | stepc (h : Hdr)
  | decide (c : DecideCmd)
  | commit (h : Hdr)
  | snap (c : SnapCmd)
  | save (h : Hdr) (ctx : Bool)
  | restore (h : Hdr) (ctx : Bool)
  | mute (h : Hdr) (pause : Bool)
  deriving DecidableEq, Repr

/-! ### What the outside world supplies -/

/-- The kinds of checked operations (R355, R356). -/
inductive ResKind where
  | product | group | exponent | add | round | int32 | bits | shift | chosen | quotient | parity
  deriving DecidableEq, Repr

/-- One operation with the integers that its residue checker sees, operands first, then the result that the unit formed
(R355, R356). -/
inductive ResOp where
  /-- a product of significands -/
  | product (a b r : Int)
  /-- a group sum of products, each with its shift -/
  | group (ps : List (Int × Nat)) (r : Int)
  /-- an exponent add, in a scale product or a multiply -/
  | exponent (a b r : Int)
  /-- an aligned add or subtract -/
  | add (sub : Bool) (x y z : Int)
  /-- a magnitude `z` rounded to `r`: `t` and `rest` of the discard of `d` bits, and the increment -/
  | round (z t : Int) (d : Nat) (rest : Int) (inc : Bool) (r : Int)
  /-- a 32-bit integer add or subtract with its carry -/
  | int32 (sub : Bool) (a b r : Word) (c : Int)
  /-- a bitwise instruction: operands, AND, OR and XOR -/
  | bits (a b conj disj diff : Word)
  /-- a shift: its operand, the result, and the bits shifted out -/
  | shift (left : Bool) (n : Nat) (a r out : Word)
  /-- the chosen operand of a selection, and the result -/
  | chosen (a r : Int)
  /-- a conversion's quotient `r` by the scale `s` with its remainder `d`, and what was divided -/
  | quotient (r s d x : Int)
  /-- a word of a special function's coefficient store with its parity bit -/
  | parity (w : Word) (p : Bool)
  deriving DecidableEq, Repr

/-- Where a checked operation stands in its command: in the array an LRA's first stage, row, column or rank index and beat
group (R84); in the vector engine the element's number and the instruction's index (R106, R386); in the reduction unit the
block, in a collective adder the segment, and the tree level (R386). -/
structure ResObs where
  stage1 : Bool
  row : Nat
  col : Nat
  group : Nat
  op : ResOp
  deriving DecidableEq, Repr

/-- What the checkers of a retiring command found (R83, R84, R143, R151, R356): the silicon's
faults are inputs of the run. Log entry 107: DESIGN CHOICE. -/
inductive CheckObs where
  /-- an operation as its residue checker saw it (R355) -/
  | residue (o : ResObs)
  /-- the exit sum of operand A's row `i` (R82) -/
  | rowExit (i : Nat) (sum : BitVec 16)
  /-- the exit sum of operand B's column `j` (R82) -/
  | colExit (j : Nat) (sum : BitVec 16)
  /-- a scratchpad or accumulator word corrected or uncorrectable at a core address (R143) -/
  | sram (core : Nat) (addr : Nat) (acc : Bool) (uncor : Bool)
  /-- an HBM line corrected or uncorrectable at a device address (R151) -/
  | hbm (addr : Nat) (uncor : Bool)
  deriving DecidableEq, Repr

/-- One hold vote (R196, R198): cause, die, logical core (0xFF when not a core's). -/
structure Vote where
  cause : BitVec 4
  die : BitVec 2
  core : BitVec 8
  deriving DecidableEq, Repr

/-- What LOADING fetches (R207): the delivered page attribute image as (page, entry) pairs, every
page not listed zero; how often each table arrived with a bad digest before that. Log entry 107: DESIGN CHOICE. -/
structure LoadInput where
  pat : List (Nat × Half)
  patBad : Nat
  grp : List Byte
  grpBad : Nat
  deriving DecidableEq, Repr

/-- The header of a table image (R314), which the device reads first; `reserved` when a reserved
field is not zero. -/
structure TableHead where
  table : Byte
  reserved : Bool
  nent : Word
  gen : Word
  apply : Word
  edig : DWord
  deriving DecidableEq, Repr

/-- The entries of a table image as delivered, as (index, value) pairs, every index not listed zero;
`bad` deliveries with a bad digest came before them. -/
structure TableImage where
  entries : List (Nat × Word)
  bad : Nat
  deriving DecidableEq, Repr

/-- A packet of the collective protocol (R326). -/
structure Packet where
  type : Byte
  ver : Byte
  jtag : Word
  srank : BitVec 16
  drank : BitVec 16
  stepw : Word
  cmdw : Word
  seg : BitVec 16
  part : Byte
  dup : Byte
  chunk : Word
  pkt : BitVec 16
  len : BitVec 16
  cdig : DWord
  psn : Word
  payload : List Byte
  deriving DecidableEq, Repr

/-- Bytes of host memory as the host presents them, by bus address; an address that is not listed reads zero. -/
abbrev HostMem := List (Nat × Byte)

/-- A drain target entry of R390 as read from host memory. -/
structure DrainTarget where
  kind : Byte
  qpn : Word
  raddr : List Byte
  base : DWord
  len : DWord
  rkey : Word
  deriving DecidableEq, Repr

/-- The header of an epoch image (R397) and whether HDRDIG verifies over it. -/
structure ImageHeader where
  ver : BitVec 16
  done : Bool
  epoch : Word
  stepw : Word
  npg : Word
  cfgdig : DWord
  key : DWord
  rank : BitVec 16
  nrank : BitVec 16
  srlen : Word
  imgdig : DWord
  hdrdig : DWord
  deriving DecidableEq, Repr

/-- A page of an epoch image: directory entry and delivered bytes; `bad` deliveries with a bad
digest came before it (R399). -/
structure ImagePage where
  page : Nat
  dig : DWord
  data : List (Nat × Byte)
  bad : Nat
  deriving DecidableEq, Repr

/-- The sensors, meters and activity counters of one 4 µs tick (R434, R435, R443, R445): volts in 10 mV, current in mA,
temperatures in 1/16 °C. Log entry 81: DESIGN CHOICE. -/
structure TickReading where
  vin : Nat
  iin : Nat
  /-- the four samples of input voltage and current (R435) -/
  samples : List (Nat × Nat)
  /-- by die, its counters of matrix units, vector instructions, reduction blocks, scratchpad lines, HBM lines and link
  flits (R434) -/
  act : List (List Nat)
  /-- no die or stack sensor is open, shorted or stuck -/
  sound : Bool
  tdie : List Int
  thbm : List Int
  tin : Int
  tout : Int
  deriving DecidableEq, Repr

/-- The cause of a compute trip (R445). -/
inductive TripCause where
  | tdie | thbm | leak | sensor
  deriving DecidableEq, Repr

/-- The cause of a module trip (R445): input current, under- or over-voltage. -/
inductive ModTripCause where
  | iin | under | over
  deriving DecidableEq, Repr

/-- What a reset or a boot finds in the silicon (R21, R381, R464): failed alignment attempts (with
the die and lane of each), failed known-answer tests of enabled cores (logical core, unit) and of
spares (die, physical core); after a hang, which of the suspects hangs again in its diagnosis run
(R409); the CDIG of the segment descriptor read at the resume position (R405). -/
structure ResetInput where
  alignFails : List (Nat × Nat)
  katCores : List (Nat × Nat)
  katSpares : List (Nat × Nat)
  hungAgain : Option Nat
  cdig : DWord
  deriving DecidableEq, Repr

/-- What Plinth finds at boot (R475, R476, R482): flash copies that do not read back as they were written (device 0 or 1,
region 1 to 8), copies whose write at this boot fails its readback twice, and for the factory image the outcome of each
signature check; a slot's payload carries its own. -/
structure BootInput where
  badCopies : List (Nat × Nat)
  badWrites : List (Nat × Nat)
  ecdsaOk : Bool
  lmsOk : Bool
  reset : ResetInput
  deriving DecidableEq, Repr

/-- A firmware slot payload (R482) with the outcome of its two signature checks. -/
structure FwPayload where
  version : Nat
  svn : Nat
  ecdsaKey : Nat
  lmsKey : Nat
  /-- bytes 64 to 8,351: the two signatures -/
  sigs : List Byte
  body : List Byte
  ecdsaOk : Bool
  lmsOk : Bool
  deriving DecidableEq, Repr

/-- How a host read of an update source or of host memory ended (R488, R499). -/
inductive HostRead where
  | ok | timeout | unsupported | abort | poisoned
  deriving DecidableEq, Repr

/-- The PCIe resets of R502. -/
inductive PcieResetKind where
  | flr | hot | linkDown | perst
  deriving DecidableEq, Repr

/-- JOB_RBASELO, JOB_RBASEHI, JOB_RSIZE (R510). -/
inductive RingReg where
  | baseLo | baseHi | size
  deriving DecidableEq, Repr

/-- The auxiliary outputs of R527 in the order of PWR_AUX.LIMIT. -/
inductive AuxOut where
  | pump | ledStat | ledFlt | fault | v3p3
  deriving DecidableEq, Repr

/-- The thermistor inputs of R529. -/
inductive ThermIn where
  | tin | tout
  deriving DecidableEq, Repr

/-- The two transports of the management bus (R531). -/
inductive Transport where
  | i3c | smbus
  deriving DecidableEq, Repr

/-- A 1PPS edge as measured (R535): the period since the last edge and the high time, in ns. -/
structure PpsEdge where
  period : Nat
  high : Nat
  deriving DecidableEq, Repr

/-- What the FEC of a port has met since the last DATA packet (R318, R350): codewords corrected and uncorrectable.
Log entry 105: DESIGN CHOICE. -/
structure FecObs where
  port : Nat
  cor : Nat
  unc : Nat
  deriving DecidableEq, Repr

/-- A DATA packet as it arrives (R327), with what the port's FEC has met. -/
structure DataRx where
  pkt : Packet
  fec : FecObs
  deriving DecidableEq, Repr

/-- What a peer operation names itself by (R336): the rank whose connection it came on, and the remote key. -/
structure PeerKey where
  rank : Nat
  rkey : Word
  deriving DecidableEq, Repr

/-- What a restore finds at its target (R399): the image's header and its Cast state record. -/
structure ImageTop where
  hdr : ImageHeader
  castRec : List Byte
  deriving DecidableEq, Repr

/-- A BAR0 read: its offset and how many bytes. -/
structure RegRead where
  off : Nat
  width : Nat
  deriving DecidableEq, Repr

/-- How a PCIe link came up beside its speed and width, in FLIT mode or not (R501), and what the host then sets in
configuration space (R498, R500). -/
structure LinkMode where
  flit : Bool
  relaxed : Bool
  msix : Bool
  payload : Nat
  readReq : Nat
  noTimeout : Bool
  deriving DecidableEq, Repr

/-- A PTP exchange as measured (R347, R348): its domain, the offset from the grandmaster in ns (signed) and the
port that took the timestamps. -/
structure PtpSample where
  domain : Nat
  offset : Int
  port : Nat
  deriving DecidableEq, Repr

/-! ### The commands -/

/-- The rows of the table, in the table's order. -/
inductive Instr where
  /-- MMA (R60) -/
  | mma (c : MmaCmd)
  /-- MEW (R80) -/
  | mew (c : MewCmd)
  /-- LRA (R311) -/
  | lra (c : LraCmd)
  /-- VPROG (R86) -/
  | vprog (c : VprogCmd)
  /-- QNT (R130) -/
  | qnt (c : QntCmd)
  /-- DQT (R136) -/
  | dqt (c : DqtCmd)
  /-- VRED (R124) -/
  | vred (c : VredCmd)
  /-- MOVE (R156) -/
  | move (c : MoveCmd)
  /-- GATH (R167) -/
  | gath (c : GathCmd)
  /-- DIG (R218) -/
  | dig (c : DigCmd)
  /-- COLL (R331) -/
  | coll (c : CollCmd)
  /-- WAIT (R219) -/
  | wait (c : WaitCmd)
  /-- SIGNAL (R219) -/
  | signal (c : SignalCmd)
  /-- PHASE (R440) -/
  | phase (c : PhaseCmd)
  /-- STEP (R225) -/
  | stepCmd (h : Hdr)
  /-- DECIDE (R274) -/
  | decideCmd (c : DecideCmd)
  /-- COMMIT (R230) -/
  | commit (h : Hdr)
  /-- SNAP (R392); `host` is host memory, where the device reads its drain target entry (R390) -/
  | snap (c : SnapCmd) (host : HostMem)
  /-- SAVE (R414) -/
  | save
  /-- RESTORE (R415); `cdig` is the CDIG of the segment descriptor read at the saved position -/
  | restore (cdig : DWord)
  /-- MUTE_END (R221) -/
  | muteEnd (h : Hdr)
  /-- MUTE_PAUSE (R220) -/
  | mutePause (h : Hdr)
  /-- COMMAND_DISPATCH (R189): the next fetched command -/
  | commandDispatch
  /-- COMMAND_FAULT_AT_ISSUE (R201): the earliest unissued command -/
  | commandFaultAtIssue
  /-- COMMAND_COMPLETION (R182): the next command to complete, with its checkers' findings -/
  | commandCompletion (obs : List CheckObs)
  /-- DECIDE_OUTCOME (R274) -/
  | decideOutcome
  /-- BATCH_BOUNDARY (R291) -/
  | batchBoundary
  /-- SEGMENT_DESCRIPTOR_FETCH (R209): the 64 bytes that arrived -/
  | segmentDescriptorFetch (data : List Byte)
  /-- SEGMENT_DESCRIPTOR_REREAD (R210) -/
  | segmentDescriptorReread (data : List Byte)
  /-- COMMAND_SEGMENT_FETCH (R211): the command bytes that arrived -/
  | commandSegmentFetch (data : List Byte)
  /-- HOLD_BEGIN (R196): the votes -/
  | holdBegin (votes : List Vote)
  /-- HOLD_END (R197): how many more cycles were held -/
  | holdEnd (cycles : Nat)
  /-- HOLD_LENGTH_WARNING (R199) -/
  | holdLengthWarning
  /-- CHUNK_ARRIVAL (R161): command index, chunk number, the bytes and the sender's digest -/
  | chunkArrival (cidx chunk : Nat) (data : List Byte) (dig : DWord)
  /-- FIRST_TOUCH_COPY (R150): the page -/
  | firstTouchCopy (page : Nat)
  /-- JOB_DOORBELL (R510): the value written and the PRIO of each newly announced descriptor -/
  | jobDoorbell (value : Word) (prios : List (BitVec 4))
  /-- JOB_LOAD_BEGIN (R205): the 256 bytes of the descriptor -/
  | jobLoadBegin (desc : List Byte)
  /-- JOB_LOAD_COMPLETE (R207) -/
  | jobLoadComplete (inp : LoadInput)
  /-- JOB_LAUNCH (R208) -/
  | jobLaunch
  /-- ABORT (R222) -/
  | abort
  /-- PAUSE (R222) -/
  | pause
  /-- PAUSE_GRANT (R412) -/
  | pauseGrant
  /-- RESUME (R222); `cdig` is the CDIG of the segment descriptor read if the job rejoins -/
  | resume (cdig : DWord)
  /-- RELEASE (R222) -/
  | release
  /-- DISCARD (R420) -/
  | discard
  /-- SLICE_END (R421) -/
  | sliceEnd
  /-- JOB_SIGADD (R219): the value written -/
  | jobSigadd (value : Word)
  /-- JOB_CRCONS_WRITE (R511) -/
  | jobCrconsWrite (value : Word)
  /-- JOB_RING_REGISTER_WRITE (R510) -/
  | jobRingRegisterWrite (reg : RingReg) (value : Word)
  /-- EVT_TAIL_WRITE (R514) -/
  | evtTailWrite (value : Word)
  /-- AUD_JTAIL_WRITE (R249) -/
  | audJtailWrite (value : Word)
  /-- JOURNAL_RECORD_WRITE (R249) -/
  | journalRecordWrite
  /-- TABLE_IMAGE_LOAD (R314): the value written to JOB_TBLCTL and the header then read -/
  | tableImageLoad (value : Word) (head : TableHead)
  /-- TABLE_IMAGE_READY (R314): page attributes, or the adapter directory -/
  | tableImageReady (adapter : Bool) (img : TableImage)
  /-- MAQUETTE_RESTORE (R399): the value written to MQT_RSTCTL, host memory with the target entry, and what stands
  there -/
  | maquetteRestore (value : Word) (host : HostMem) (img : ImageTop)
  /-- MAQUETTE_RESTORE_COMPLETE (R399): the pages and the appended step record -/
  | maquetteRestoreComplete (pages : List ImagePage) (stepRec : List Byte)
  /-- DRAIN_PAGE_COMPLETE (R396) -/
  | drainPageComplete (page : Nat)
  /-- EPOCH_COMPLETE (R398) -/
  | epochComplete
  /-- EPOCH_FAIL (R398): the reason of 0xA047 -/
  | epochFail (reason : Nat)
  /-- COMPUTE_RESET (R403) -/
  | computeReset (inp : ResetInput)
  /-- CKM_RSTCTL_WRITE (R402): the value written -/
  | ckmRstctlWrite (value : Word)
  /-- HANG_DETECTED (R406) -/
  | hangDetected
  /-- WAIT_TIMEOUT (R410) -/
  | waitTimeout
  /-- RESET_TIMEOUT (R410): the phase reached -/
  | resetTimeout
  /-- AUD_VERDICT_WRITE (R379) -/
  | audVerdictWrite (value : Word)
  /-- DUO_PARTNER_SILENT (R264) -/
  | duoPartnerSilent
  /-- DUO_RD_EXCHANGE_COMPLETE (R263): the partner's RDs that came last, behind those of DUO packets -/
  | duoRdExchangeComplete (rds : List DWord)
  /-- DUO_MESSAGE_SEND (R346) -/
  | duoMessageSend
  /-- DATA_PACKET_RECEIVE (R327), with what the port's FEC has met -/
  | dataPacketReceive (x : DataRx)
  /-- ACK_PACKET_RECEIVE (R328) -/
  | ackPacketReceive (p : Packet)
  /-- ACK_TIMER (R328): the flow's sending rank -/
  | ackTimer (rank : Nat)
  /-- RETRANSMIT_TIMEOUT (R328): the flow's receiving rank and the packet -/
  | retransmitTimeout (rank : Nat) (psn : Word)
  /-- BUSY_PACKET_RECEIVE (R330) -/
  | busyPacketReceive (p : Packet)
  /-- FLAG_PACKET_RECEIVE (R341) -/
  | flagPacketReceive (p : Packet)
  /-- SIGNAL_PACKET_RECEIVE (R339) -/
  | signalPacketReceive (p : Packet)
  /-- KEEPALIVE_SEND (R342) -/
  | keepaliveSend
  /-- KEEPALIVE_RECEIVE (R343) -/
  | keepaliveReceive (p : Packet)
  /-- PEER_SILENT (R343) -/
  | peerSilent (rank : Nat)
  /-- PEER_REJOIN_SETTLE (R343) -/
  | peerRejoinSettle (rank : Nat)
  /-- RESYNC_RECEIVE (R345) -/
  | resyncReceive (p : Packet)
  /-- DUO_PACKET_RECEIVE (R346) -/
  | duoPacketReceive (p : Packet)
  /-- PEER_RDMA_WRITE (R336, R337): its connection and key, HBM or core address, bytes -/
  | peerRdmaWrite (by_ : PeerKey) (core : Option Nat) (addr : Nat) (data : List Byte)
  /-- PEER_RDMA_READ (R336, R337) -/
  | peerRdmaRead (by_ : PeerKey) (core : Option Nat) (addr len : Nat)
  /-- ADDRESS_RESOLUTION_REQUEST (R319): port and the address asked for -/
  | addressResolutionRequest (port : Nat) (addr : List Byte)
  /-- CONGESTION_NOTIFICATION (R319): the port -/
  | congestionNotification (port : Nat)
  /-- PFC_PAUSE_FRAME (R319): port, priority, pause or resume -/
  | pfcPauseFrame (port : Nat) (prio : BitVec 3) (pause : Bool)
  /-- ETH_LINK_UP (R352): port, PHY code, lanes with lock -/
  | ethLinkUp (port : Nat) (phy : BitVec 4) (lanes : Byte)
  /-- ETH_LINK_DOWN (R352) -/
  | ethLinkDown (port : Nat)
  /-- LINK_TRAINING_FAIL (R352): port and lanes with lock -/
  | linkTrainingFail (port : Nat) (lanes : Byte)
  /-- PTP_MESSAGE (R347) -/
  | ptpMessage (m : PtpSample)
  /-- PTP_SYNC_TIMEOUT (R348) -/
  | ptpSyncTimeout
  /-- PPS_EDGE (R535) -/
  | ppsEdge (e : PpsEdge)
  /-- PPS_TIMEOUT (R535) -/
  | ppsTimeout
  /-- D2D_LINK_RETRY (R13): edge E01, E23, E02, E13 as 0 to 3 -/
  | d2dLinkRetry (edge : BitVec 2)
  /-- HBM_REFRESH (R152): stack and bank -/
  | hbmRefresh (stack bank : Nat)
  /-- HBM_PATROL_SCRUB (R153): the line's address and what was found: none, corrected, uncorrectable -/
  | hbmPatrolScrub (addr : Nat) (err : Option Bool)
  /-- SHARD_SCRUB_ENTRY (R307): the entry, and the digest of the bytes read where it is not what HBM holds -/
  | shardScrubEntry (entry : Nat) (misread : Option DWord)
  /-- BELLOWS_TICK (R439) -/
  | bellowsTick (r : TickReading)
  /-- SLOPE_INTERVAL_END (R432) -/
  | slopeIntervalEnd
  /-- CALIBRATION_UPDATE (R435): the sums of P_meas and P_est over the millisecond -/
  | calibrationUpdate (meas est : Nat)
  /-- PATINA_SAMPLE (R450): the lowest margin code of each logical core -/
  | patinaSample (codes : List (BitVec 6))
  /-- COMPUTE_TRIP (R446): the cause and the reading -/
  | computeTrip (cause : TripCause) (reading : Nat)
  /-- MODULE_TRIP (R447): the cause and the reading -/
  | moduleTrip (cause : ModTripCause) (reading : Nat)
  /-- PWR_TRIP_CLR (R446): the value written and what the power-on finds -/
  | pwrTripClr (value : Word) (inp : ResetInput)
  /-- PLL_LOCK_LOSS (R467): the die; once relocked, the failed alignment attempts; none while the PLL does
  not relock -/
  | pllLockLoss (die : Nat) (alignFails : Option (List (Nat × Nat)))
  /-- RELOCK_TIMEOUT (R467) -/
  | relockTimeout (die : Nat)
  /-- POWER_ON (R468) -/
  | powerOn (inp : BootInput)
  /-- MODULE_RESTART (R489): the value written -/
  | moduleRestart (value : Word) (inp : BootInput)
  /-- FIRMWARE_SLOT_WRITE (R488) -/
  | firmwareSlotWrite (fw : FwPayload) (read : HostRead)
  /-- USER_IMAGE_WRITE (R488): the payload of R477 -/
  | userImageWrite (payload : List Byte) (read : HostRead)
  /-- USER_IMAGE_ERASE (R488) -/
  | userImageErase
  /-- SVN_FLOOR_RAISE (R488) -/
  | svnFloorRaise
  /-- FLASH_UPDATE_COMPLETE (R476): whether FL1's copy, then FL0's, read back with a matching HASH -/
  | flashUpdateComplete (fl1Ok fl0Ok : Bool)
  /-- QUOTE_REQUEST (R493): over the management bus or PCIe, the nonce read at PLN_QADDR, and the random numbers that its
  two signatures draw -/
  | quoteRequest (mgmt : Bool) (nonce : List Byte) (rand lrand : Nat)
  /-- LATCHING_READ (R204, R504): a BAR0 read, of the LO word's offset in a latching one -/
  | latchingRead (r : RegRead)
  /-- REGISTER_WRITE (R7): BAR0 offset, width in bytes, value -/
  | registerWrite (off width : Nat) (value : DWord)
  /-- PWR_INSTAT_CLEAR (R524): the value written -/
  | pwrInstatClear (value : Word)
  /-- MSIX_UNMASK (R509): the vector -/
  | msixUnmask (vec : Nat)
  /-- BAR2_READ (R155): BAR2 offset and length -/
  | bar2Read (off len : Nat)
  /-- BAR2_WRITE (R155): BAR2 offset and bytes -/
  | bar2Write (off : Nat) (data : List Byte)
  /-- MGMT_BUS_WRITE (R532): transport, offset, data, whether the PEC was good -/
  | mgmtBusWrite (tr : Transport) (off : Nat) (data : Word) (pecOk : Bool)
  /-- MGMT_BUS_READ (R532) -/
  | mgmtBusRead (tr : Transport) (off : Nat) (pecOk : Bool)
  /-- I3C_ADDRESS_ASSIGNMENT (R531): the dynamic address -/
  | i3cAddressAssignment (addr : BitVec 7)
  /-- BUS_LINE_STUCK (R533): transport; data line or clock line -/
  | busLineStuck (tr : Transport) (data : Bool)
  /-- BUS_LINE_RECOVER (R533) -/
  | busLineRecover (tr : Transport) (data : Bool)
  /-- PCIE_LINK_TRAINED (R501): speed code 1 to 6, width, FLIT mode and the host's permit (R500) -/
  | pcieLinkTrained (speed : BitVec 4) (width : BitVec 5) (mode : LinkMode)
  /-- PCIE_RESET (R502) -/
  | pcieReset (kind : PcieResetKind)
  /-- D3HOT_ENTRY (R502) -/
  | d3hotEntry
  /-- INPUT_VALID (R522) -/
  | inputValid
  /-- INRUSH_TIMEOUT (R522) -/
  | inrushTimeout
  /-- INPUT_STAGE_OPEN (R524): forward short, or reverse current -/
  | inputStageOpen (reverse : Bool)
  /-- INPUT_STAGE_REARM (R524) -/
  | inputStageRearm
  /-- REVERSE_POLARITY (R525) -/
  | reversePolarity
  /-- REF25_LOSS (R536) -/
  | ref25Loss
  /-- AUX_OUTPUT_LIMIT (R527): output and its current in mA -/
  | auxOutputLimit (out : AuxOut) (ma : Nat)
  /-- AUX_OUTPUT_RETRY (R527): output, still limited -/
  | auxOutputRetry (out : AuxOut) (limited : Bool)
  /-- SENSOR_INPUT_FAULT (R529): thermistor; shorted or open -/
  | sensorInputFault (inp : ThermIn) (short : Bool)
  /-- SENSOR_INPUT_RECOVER (R529) -/
  | sensorInputRecover (inp : ThermIn)
  /-- LEAK_LOOP_MEASURE (R530): the loop resistance in Ω -/
  | leakLoopMeasure (ohms : Nat)
  /-- ROCE_RESPONSE_RECEIVE (R337): command index; acknowledged or remote access error -/
  | roceResponseReceive (cidx : Nat) (ok : Bool)
  /-- PCIE_COMPLETION_TIMEOUT (R499): command index and chunk whose host read failed, how, and its address -/
  | pcieCompletionTimeout (cidx chunk : Nat) (how : HostRead) (addr : DWord)
  /-- BAR2_RESIZE (R507): log2 of the new size -/
  | bar2Resize (log2 : Nat)
  deriving DecidableEq, Repr

end Sys2Proof
end

