-- ==== Sys2Proof/Config.lean ====
section
/-! DEFINITION. What one implementation fixes and the spec leaves open: free values without a body. A claim
that mentions one holds for every value of it. `Config.free*` are applied to the counter
`State.free`, so each use is a fresh value (log entry 1). -/
namespace Sys2Proof

/-- A free bit (log entry 1: DESIGN CHOICE): which of two allowed outcomes the device took. -/
opaque Config.freeBit : Nat → Bool

/-- A free byte (log entry 1: DESIGN CHOICE). -/
opaque Config.freeByte : Nat → Byte

/-- A free number (log entry 1). -/
opaque Config.freeNat : Nat → Nat

/-- Beats that a command, the first index, waits for scratchpad banks under R140 behind the command of the second index,
or, the two alike, behind its own requests: the rule fixes who waits, the spec does not give the per-beat bank pattern
of the array's and the engines' streams (log entry 2: DESIGN CHOICE). -/
opaque Config.bankConflictBeats : Nat → Nat → Nat

/-- The FP32 code of a special function whose correct rounding the model's interval bounds do not
decide at their largest precision, by opcode and operand code (log entry 3: DESIGN CHOICE). -/
opaque Config.undecidedSpecial : Nat → Nat → Nat

/-- Whether a PACK of 2-byte elements, by command index, holds FP16 (true) or BF16: MOVE has no field
that says so (log entry 11: DESIGN CHOICE). -/
opaque Config.packFp16 : Nat → Bool

/-- Free bytes of a memory, as (address, byte) pairs: what stands in a range that the spec calls undefined (log entry 50:
DESIGN CHOICE). -/
opaque Config.freeCells : Nat → List (Nat × Byte)

/-- The fused voltage table of a compute die (R448): its core-rail voltage in mV at a clock of so many MHz. The spec gives
no value of it (log entry 123: DESIGN CHOICE). -/
opaque Config.coreRail : Nat → Nat → Nat

/-- Where in its ±10% the fused energy of an activity counter lies (R434; log entry 81: DESIGN CHOICE). -/
opaque Config.energy : Nat → Nat

/-- The nominal die voltage Vnom in mV, to which the energies are scaled (R434; log entry 81: DESIGN CHOICE). -/
opaque Config.nominalVolt : Nat

/-- P_fix in 1/8 W by the hottest junction temperature in 1/16 °C: leakage from the fused table, with the IOD, SerDes and PCIe
(R434; log entry 81: DESIGN CHOICE). -/
opaque Config.fixedPower : Int → Nat

/-- How much of its bound the rate adjustment of WALL uses, by the WALL it starts from: the spec bounds the rate and
gives no law of it (log entry 60: DESIGN CHOICE). -/
opaque Config.wallRate : Nat → Nat

/-- The unique device secret in the OTP (R485, R490): the spec gives neither its value nor its width (log entry 133:
DESIGN CHOICE). -/
opaque Config.deviceSecret : List Byte

/-- What the device identity key's private scalar is derived to from the unique device secret (R490; log entry 133: DESIGN
CHOICE). -/
opaque Config.identityScalar : List Byte → Nat

/-- The identifier and the seed of a tree of the attestation key derived from the unique device secret: the top tree, or the
lower tree of a top index (R491; log entry 133: DESIGN CHOICE). -/
opaque Config.lmsSeed : List Byte → Option Nat → List Byte × List Byte

/-- The randomizer with which the top tree signs the lower tree of a top index (R491; log entry 133: DESIGN CHOICE). -/
opaque Config.lmsRandom : List Byte → Nat → List Byte

/-- The subject keys of the Geltuim product CA (0) and of the Lamsadar root CA (1) (R490; log entry 133: DESIGN
CHOICE). -/
opaque Config.caKey : Nat → List Byte

end Sys2Proof
end

