-- ==== Sys2Proof/Machine/Flags.lean ====
section
/-! DEFINITION. The flag word and its bits (R56, R112); the conversions and operations that raise them stand in Formats.lean,
Arith.lean, Matrix.lean, Vector.lean and Quant.lean. -/
namespace Sys2Proof.Machine

/-- The sticky flag word of R112, as a set of bits. -/
abbrev FlagWord := BitVec 16

/-- NV, bit 0 (R56). -/
def flagNV : FlagWord := 0x1
/-- SAT, bit 1 (R56). -/
def flagSAT : FlagWord := 0x2
/-- OVF, bit 2 (R56). -/
def flagOVF : FlagWord := 0x4
/-- UZ, bit 3 (R56). -/
def flagUZ : FlagWord := 0x8
/-- DZ, bit 4 (R112). -/
def flagDZ : FlagWord := 0x10
/-- FM, bit 5 (R112). -/
def flagFM : FlagWord := 0x20

end Sys2Proof.Machine
end

