-- ==== Sys2Proof/Machine/Formats.lean ====
section
/-! DEFINITION. Number formats and conversion (R32 to R59): element encodings, group scales, decoded values
held exactly, and the one rule by which any value becomes any format. -/
namespace Sys2Proof.Machine

/-- The element formats of R32. -/
inductive Fmt where
  | fp32 | bf16 | fp16 | e4m3 | e5m2 | e2m3 | e3m2 | e2m1
  deriving DecidableEq, Repr

namespace Fmt

/-- FMT codes of R32; 0x8 to 0xF are reserved. -/
def ofCode : Nat → Option Fmt
  | 0 => some .fp32
  | 1 => some .bf16
  | 2 => some .fp16
  | 3 => some .e4m3
  | 4 => some .e5m2
  | 5 => some .e2m3
  | 6 => some .e3m2
  | 7 => some .e2m1
  | _ => none

/-- Exponent bits (R35). -/
def ebits : Fmt → Nat
  | fp32 => 8
  | bf16 => 8
  | fp16 => 5
  | e4m3 => 4
  | e5m2 => 5
  | e2m3 => 2
  | e3m2 => 3
  | e2m1 => 2

/-- Mantissa bits (R35). -/
def mbits : Fmt → Nat
  | fp32 => 23
  | bf16 => 7
  | fp16 => 10
  | e4m3 => 3
  | e5m2 => 2
  | e2m3 => 3
  | e3m2 => 2
  | e2m1 => 1

/-- Exponent bias (R35). -/
def bias : Fmt → Nat
  | fp32 => 127
  | bf16 => 127
  | fp16 => 15
  | e4m3 => 7
  | e5m2 => 15
  | e2m3 => 1
  | e3m2 => 3
  | e2m1 => 1

/-- Width in bits. -/
def width (f : Fmt) : Nat := 1 + f.ebits + f.mbits

/-- Whether the format has infinities (R35). -/
def hasInf : Fmt → Bool
  | fp32 | bf16 | fp16 | e5m2 => true
  | _ => false

/-- Whether the format has NaN codes (R35). -/
def hasNan : Fmt → Bool
  | fp32 | bf16 | fp16 | e5m2 | e4m3 => true
  | _ => false

/-- The code of the largest finite magnitude (R35). -/
def maxCode : Fmt → Nat
  | fp32 => 0x7F7FFFFF
  | bf16 => 0x7F7F
  | fp16 => 0x7BFF
  | e4m3 => 0x7E
  | e5m2 => 0x7B
  | e2m3 => 0x1F
  | e3m2 => 0x1F
  | e2m1 => 0x7

/-- The code of +infinity, in a format that has one. -/
def infCode (f : Fmt) : Nat := (2 ^ f.ebits - 1) * 2 ^ f.mbits

/-- The canonical NaN (R35, R51). -/
def nanCode : Fmt → Nat
  | fp32 => 0x7FC00000
  | bf16 => 0x7FC0
  | fp16 => 0x7E00
  | e4m3 => 0x7F
  | e5m2 => 0x7E
  | _ => 0

/-- The sign bit of a code. -/
def signBit (f : Fmt) : Nat := 2 ^ (f.ebits + f.mbits)

/-- The exponent of the least significant bit of a subnormal. -/
def lsbMin (f : Fmt) : Int := 1 - (f.bias : Int) - (f.mbits : Int)

/-- Formats that R33 lets stand without a scale. -/
def unscaledOk : Fmt → Bool
  | fp32 | bf16 | fp16 | e4m3 | e5m2 => true
  | _ => false

/-- Formats that R33 lets carry a scale. -/
def scaledOk : Fmt → Bool
  | e4m3 | e5m2 | e2m3 | e3m2 | e2m1 => true
  | _ => false

/-- `emax` of R58: the exponent of the largest value. -/
def emax : Fmt → Int
  | e2m1 | e2m3 => 2
  | e3m2 => 4
  | e4m3 => 8
  | e5m2 | fp16 => 15
  | _ => 127

end Fmt

/-- The scale kinds of R32. -/
inductive SKind where
  | none | e8m0 | e4m3
  deriving DecidableEq, Repr

/-- SKIND codes of R32; 0b11 is reserved. -/
def SKind.ofCode : Nat → Option SKind
  | 0 => some .none
  | 1 => some .e8m0
  | 2 => some .e4m3
  | _ => Option.none

/-- A decoded format byte (R32, R217): element format, scale kind, group size. -/
structure Tf where
  fmt : Fmt
  sk : SKind
  gsize : Nat
  deriving DecidableEq, Repr

/-- Reads a format byte under R217, R33 and R34: reserved codes and forbidden combinations give
none; GSIZE is not looked at when SKIND is 0b00. Log entry 35: DEDUCED. -/
def Tf.ofByte (b : Nat) : Option Tf :=
  match Fmt.ofCode (bits b 7 4), SKind.ofCode (bits b 3 2) with
  | some f, some .none => if f.unscaledOk then some ⟨f, .none, 32⟩ else none
  | some f, some k =>
    if f.scaledOk && bits b 1 0 != 3 then some ⟨f, k, 32 * 2 ^ bits b 1 0⟩ else none
  | _, _ => none

/-- A real value held exactly: `fin neg m e` is ±m × 2^e; a zero keeps its sign. -/
inductive Val where
  | nan
  | inf (neg : Bool)
  | fin (neg : Bool) (m : Nat) (e : Int)
  deriving DecidableEq, Repr

namespace Val

/-- Whether the value is a NaN or an infinity. -/
def nonfinite : Val → Bool
  | fin _ _ _ => false
  | _ => true

/-- The value with its sign flipped. -/
def neg : Val → Val
  | nan => nan
  | inf s => inf (!s)
  | fin s m e => fin (!s) m e

/-- The magnitude. -/
def abs : Val → Val
  | nan => nan
  | inf _ => inf false
  | fin _ m e => fin false m e

/-- Whether the value is a zero of either sign. -/
def isZero : Val → Bool
  | fin _ 0 _ => true
  | _ => false

/-- The sign. -/
def isNeg : Val → Bool
  | nan => false
  | inf s => s
  | fin s _ _ => s

end Val

/-- The value of an element code (R35, R36, R37). -/
def decodeElem (f : Fmt) (code : Nat) : Val :=
  let s := bitAt code (f.ebits + f.mbits)
  let ex := code / 2 ^ f.mbits % 2 ^ f.ebits
  let man := code % 2 ^ f.mbits
  if f.hasInf && ex == 2 ^ f.ebits - 1 then (if man = 0 then .inf s else .nan)
  else if f == .e4m3 && ex == 15 && man == 7 then .nan
  else if ex = 0 then .fin s man f.lsbMin
  else .fin s (2 ^ f.mbits + man) (f.lsbMin + (ex : Int) - 1)

/-- A group scale (R39, R40): `pos m e` is m × 2^e. -/
inductive Scale where
  | nan
  | zero
  | pos (m : Nat) (e : Int)
  deriving DecidableEq, Repr

/-- A signed 8-bit tensor exponent (R40). -/
def texpVal (b : Byte) : Int := b.toInt

/-- The value of a scale code (R39, R40), TEXP included. -/
def decodeScale (k : SKind) (texp : Byte) (code : Nat) : Scale :=
  match k with
  | .none => .pos 1 0
  | .e8m0 => if code = 255 then .nan else .pos 1 ((code : Int) - 127)
  | .e4m3 =>
    if code ≥ 0x7F then .nan
    else if code = 0 then .zero
    else match decodeElem .e4m3 code with
      | .fin _ m e => .pos m (e + texpVal texp)
      | _ => .nan

/-- The decoded value of a narrow element (R43): exact. -/
def scaleVal (s : Scale) (v : Val) : Val :=
  match s, v with
  | .nan, _ => .nan
  | _, .nan => .nan
  | .zero, .inf _ => .nan
  | .zero, .fin n _ _ => .fin n 0 0
  | .pos _ _, .inf n => .inf n
  | .pos m e, .fin n a b => .fin n (a * m) (b + e)

/-! ### Rounding (R45 to R57) -/

/-- The rounding modes: to nearest even, or stochastic with the element's 16-bit value r (R53). -/
inductive Rnd where
  | rne
  | sr (r : Nat)
  deriving DecidableEq, Repr

/-- ⌊log2 (n × 2^e ÷ d)⌋ for positive n and d. -/
def floorLog2 (n d : Nat) (e : Int) : Int :=
  let g : Int := (n.log2 : Int) - (d.log2 : Int)
  let ge := if 0 ≤ g then decide (d * 2 ^ g.toNat ≤ n) else decide (d ≤ n * 2 ^ (-g).toNat)
  (if ge then g else g - 1) + e

/-- n × 2^e ÷ d in units of 2^u as a fraction of naturals. -/
def inUnits (n d : Nat) (e u : Int) : Nat × Nat :=
  (n * 2 ^ (e - u).toNat, d * 2 ^ (u - e).toNat)

/-- The exponent of the unit in which a magnitude near 2^l is rounded in format `f`, the exponent
range unbounded above. -/
def unitExp (f : Fmt) (l : Int) : Int := max (l - f.mbits) f.lsbMin

/-- The code (sign clear) of r × 2^u, for u at least the subnormal unit; a carry out of the
mantissa moves into the exponent. -/
def magCode (f : Fmt) (r : Nat) (u : Int) : Nat := r + (u - f.lsbMin).toNat * 2 ^ f.mbits

/-- The unit of the largest finite value. -/
def maxUnit (f : Fmt) : Int :=
  f.lsbMin + (f.maxCode / 2 ^ f.mbits : Nat) - 1

/-- The largest finite value in that unit. -/
def maxSig (f : Fmt) : Nat := 2 ^ f.mbits + f.maxCode % 2 ^ f.mbits

/-- Whether a magnitude reaches the midpoint of R48. -/
def reachesMid (f : Fmt) (n d : Nat) (e : Int) : Bool :=
  let (a, b) := inUnits n d e (maxUnit f)
  decide ((2 * maxSig f + 1) * b ≤ 2 * a)

/-- The magnitude code chosen for a positive n × 2^e ÷ d, or none where the result overflows
(R47, R49, R53). Log entry 136: DEDUCED. -/
def roundMag (f : Fmt) (m : Rnd) (n d : Nat) (e : Int) : Option Nat :=
  let u := unitExp f (floorLog2 n d e)
  let (a, b) := inUnits n d e u
  let lo := a / b
  let rem := a % b
  match m with
  | .rne =>
    if reachesMid f n d e then none
    else
      let up := decide (b < 2 * rem) || (decide (2 * rem = b) && lo % 2 == 1)
      some (min (magCode f (if up then lo + 1 else lo) u) f.maxCode)
  | .sr r =>
    let t := rem * 65536 / b
    let c := magCode f (if 65536 ≤ t + r then lo + 1 else lo) u
    if c > f.maxCode then none else some c

/-- A sign put on a magnitude code. -/
def withSign (f : Fmt) (neg : Bool) (c : Nat) : Nat := if neg then c + f.signBit else c

/-- Overflow under R49 and R50: infinity with OVF in INF mode where the format has one, else the
largest value with SAT. -/
def overflow (f : Fmt) (infMode : Bool) (neg : Bool) : Nat × FlagWord :=
  if infMode && f.hasInf then (withSign f neg f.infCode, flagOVF)
  else (withSign f neg f.maxCode, flagSAT)

/-- Stores ±n × 2^e ÷ d in format `f` (R45, R47, R49, R53, R56). Log entry 136: DEDUCED. -/
def storeFin (f : Fmt) (m : Rnd) (infMode : Bool) (neg : Bool) (n d : Nat) (e : Int) :
    Nat × FlagWord :=
  if n = 0 then (withSign f neg 0, 0)
  else match roundMag f m n d e with
    | none => overflow f infMode neg
    | some c => (withSign f neg c, if c = 0 then flagUZ else 0)

/-- Stores a value in an unscaled format (R45 to R51, R57). -/
def store (f : Fmt) (m : Rnd) (infMode : Bool) (v : Val) : Nat × FlagWord :=
  match v with
  | .nan => (f.nanCode, flagNV)
  | .inf s =>
    if f.hasInf then (withSign f s f.infCode, 0) else (withSign f s f.maxCode, flagSAT)
  | .fin s n e => storeFin f m infMode s n 1 e

/-- Stores a value under a positive scale: the exact quotient is rounded once (R45). -/
def storeScaled (f : Fmt) (m : Rnd) (infMode : Bool) (sm : Nat) (se : Int) (v : Val) :
    Nat × FlagWord :=
  match v with
  | .fin s n e => storeFin f m infMode s n sm (e - se)
  | v => store f m infMode v

/-- Rounds a value once to FP32 with overflow to infinity, as a value and its flags (R66, R94). -/
def round32 (v : Val) : Nat × FlagWord := store .fp32 .rne true v

/-! ### Choosing a scale (R58, R279) -/

/-- Compares n × 2^e with n' × 2^e'. -/
def magLe (n : Nat) (e : Int) (n' : Nat) (e' : Int) : Bool :=
  decide (n * 2 ^ (e - e').toNat ≤ n' * 2 ^ (e' - e).toNat)

/-- The smallest E4M3 scale code from 0x01 to 0x7E whose value times 2^texp is at least
n × 2^e ÷ d; 0x7E when none is. -/
def e4m3AtLeast (texp : Byte) (n d : Nat) (e : Int) : Nat :=
  ((List.range 0x7E).map (· + 1)).foldr
    (fun c acc =>
      match decodeScale .e4m3 texp c with
      | .pos m se => if magLe n e (m * d) se then c else acc
      | _ => acc) 0x7E

/-- The scale computed from a group's largest finite magnitude amax = n × 2^e (R58); `allZero` says
that every input of the group is zero. -/
def groupScale (f : Fmt) (k : SKind) (texp : Byte) (n : Nat) (e : Int) (allZero : Bool) : Nat :=
  match k with
  | .none => 0
  | .e8m0 =>
    if n = 0 then 0
    else ((max (-127) (min 127 (floorLog2 n 1 e - f.emax))) + 127).toNat
  | .e4m3 =>
    if n = 0 then (if allZero then 0 else 1)
    else e4m3AtLeast texp n (maxSig f) (e - maxUnit f)

/-- The scale for a running-estimate target T = n × 2^e, n positive (R279). -/
def targetScale (f : Fmt) (k : SKind) (texp : Byte) (n : Nat) (e : Int) : Nat :=
  match k with
  | .none => 0
  | .e8m0 =>
    let fl := floorLog2 n (maxSig f) (e - maxUnit f)
    let s := if magLe n e (maxSig f) (maxUnit f + fl) then fl else fl + 1
    ((max (-127) (min 127 s)) + 127).toNat
  | .e4m3 => e4m3AtLeast texp n (maxSig f) (e - maxUnit f)

/-- The canonical NaN scale code (R39, R40, R52). -/
def nanScale : SKind → Nat
  | .e8m0 => 0xFF
  | _ => 0x7F

end Sys2Proof.Machine
end

