-- ==== Sys2Proof/Machine/Arith.lean ====
section
/-! DEFINITION. Exact arithmetic on values and its one rounding (R64 to R67, R94 to R96): sums and products
are formed exactly, NaN and infinity follow IEEE 754, and the result is rounded once. -/
namespace Sys2Proof.Machine

/-- The signed integer ±m. -/
def signedMag (neg : Bool) (m : Nat) : Int := if neg then -(m : Int) else (m : Int)

/-- The exact sum of two finite terms as a signed integer in the smaller unit, and that unit. -/
def sumFin (s₁ : Bool) (m₁ : Nat) (e₁ : Int) (s₂ : Bool) (m₂ : Nat) (e₂ : Int) : Int × Int :=
  let e := min e₁ e₂
  (signedMag s₁ (m₁ * 2 ^ (e₁ - e).toNat) + signedMag s₂ (m₂ * 2 ^ (e₂ - e).toNat), e)

/-- The exact sum of two values (R94): an exact zero sum is +0, except that of two negative
zeros. -/
def Val.add : Val → Val → Val
  | .nan, _ => .nan
  | _, .nan => .nan
  | .inf s, .inf t => if s = t then .inf s else .nan
  | .inf s, _ => .inf s
  | _, .inf t => .inf t
  | .fin s₁ m₁ e₁, .fin s₂ m₂ e₂ =>
    let (z, e) := sumFin s₁ m₁ e₁ s₂ m₂ e₂
    if z = 0 then .fin (s₁ && s₂ && m₁ == 0 && m₂ == 0) 0 0
    else .fin (decide (z < 0)) z.natAbs e

/-- The exact difference. -/
def Val.sub (a b : Val) : Val := a.add b.neg

/-- The exact product (R65, R94): an infinity times a zero is NaN. -/
def Val.mul : Val → Val → Val
  | .nan, _ => .nan
  | _, .nan => .nan
  | .inf s, .inf t => .inf (s != t)
  | .inf s, .fin t m _ => if m = 0 then .nan else .inf (s != t)
  | .fin s m _, .inf t => if m = 0 then .nan else .inf (s != t)
  | .fin s m e, .fin t n f => .fin (s != t) (m * n) (e + f)

/-- The exact a × b + c (R94: FMA has no intermediate rounding). -/
def Val.fma (a b c : Val) : Val := (a.mul b).add c

/-- Whether a < b for values that are not NaN; zeros compare equal. -/
def Val.lt : Val → Val → Bool
  | .nan, _ => false
  | _, .nan => false
  | .inf s, .inf t => s && !t
  | .inf s, _ => s
  | _, .inf t => !t
  | .fin s₁ m₁ e₁, .fin s₂ m₂ e₂ =>
    let (z, _) := sumFin s₁ m₁ e₁ (!s₂) m₂ e₂
    decide (z < 0)

/-- Whether two values are equal as numbers; NaN equals nothing. -/
def Val.numEq (a b : Val) : Bool :=
  match a, b with
  | .nan, _ => false
  | _, .nan => false
  | _, _ => !a.lt b && !b.lt a

/-- MAX under R95: canonical NaN if either operand is NaN; +0 above −0. -/
def Val.maxV (a b : Val) : Val :=
  match a, b with
  | .nan, _ => .nan
  | _, .nan => .nan
  | _, _ =>
    if a.lt b then b else if b.lt a then a
    else if a.isNeg then b else a

/-- MIN under R95: canonical NaN if either operand is NaN; −0 below +0. -/
def Val.minV (a b : Val) : Val :=
  match a, b with
  | .nan, _ => .nan
  | _, .nan => .nan
  | _, _ =>
    if a.lt b then a else if b.lt a then b
    else if a.isNeg then a else b

/-- The conditions of CMP (R95); 0x8 to 0xF are reserved and hold nothing here. -/
def cmpHolds (mod : Nat) (a b : Val) : Bool :=
  let un := a == .nan || b == .nan
  match mod with
  | 0 => a.numEq b
  | 1 => !(a.numEq b)
  | 2 => a.lt b
  | 3 => a.lt b || a.numEq b
  | 4 => b.lt a
  | 5 => b.lt a || a.numEq b
  | 6 => un
  | 7 => !un
  | _ => false

/-- The integral part of m × 2^e for a positive value, rounded by the MOD of R96: 0 nearest even,
1 toward −infinity, 2 toward +infinity, 3 toward zero. -/
def roundIntegral (mod : Nat) (neg : Bool) (m : Nat) (e : Int) : Nat :=
  if 0 ≤ e then m * 2 ^ e.toNat
  else
    let d := 2 ^ (-e).toNat
    let q := m / d
    let r := m % d
    let up : Bool := match mod with
      | 0 => decide (d < 2 * r) || (decide (2 * r = d) && q % 2 == 1)
      | 1 => neg && r != 0
      | 2 => !neg && r != 0
      | _ => false
    if up then q + 1 else q

/-- RNDI (R96): the sign of a zero result is kept, infinities are unchanged. -/
def Val.rndi (mod : Nat) : Val → Val
  | .nan => .nan
  | .inf s => .inf s
  | .fin s m e => .fin s (roundIntegral mod s m e) 0

/-- F2I (R96): beyond the range SAT, NaN gives 0 and NV. -/
def f2i (mod : Nat) : Val → Word × FlagWord
  | .nan => (0, flagNV)
  | .inf s => (if s then 0x80000000 else 0x7FFFFFFF, flagSAT)
  | .fin s m e =>
    let z := signedMag s (roundIntegral mod s m e)
    if z > 2147483647 then (0x7FFFFFFF, flagSAT)
    else if z < -2147483648 then (0x80000000, flagSAT)
    else (BitVec.ofInt 32 z, 0)

/-- The value of an FP32 code. -/
def f32 (w : Nat) : Val := decodeElem .fp32 w

/-- A value rounded once to FP32 (R94) and read back. -/
def rn32 (v : Val) : Val := f32 (round32 v).1

/-! ### The mod-independent reduction tree (R124 to R127) -/

/-- A rounded node of the reduction unit: its value and the flags raised so far. -/
abbrev Node := Val × FlagWord

/-- One level of the tree: slots 2t and 2t+1 meet, an absent partner passes the other through
(R125, R126). -/
def treeLevel (op : Val → Val → Val × FlagWord) : List (Option Node) → List (Option Node)
  | some (a, fa) :: some (b, fb) :: r =>
    let (v, f) := op a b
    some (v, fa ||| fb ||| f) :: treeLevel op r
  | some x :: none :: r => some x :: treeLevel op r
  | none :: y :: r => y :: treeLevel op r
  | [x] => [x]
  | [] => []

/-- `n` levels of the tree. -/
def treeLevels (op : Val → Val → Val × FlagWord) : Nat → List (Option Node) → List (Option Node)
  | 0, xs => xs
  | n + 1, xs => treeLevels op n (treeLevel op xs)

/-- The value of one block of at most 2^n slots (R125). -/
def treeFold (op : Val → Val → Val × FlagWord) (n : Nat) (xs : List (Option Node)) : Option Node :=
  match treeLevels op n xs with
  | y :: _ => y
  | [] => none

/-- Blocks of 256 slots, then acc := node(acc, T(block)) in ascending order (R124, R127); `xs`
starts at slot 0 of block 0. `fuel` bounds the blocks. -/
def blocksFold (op : Val → Val → Val × FlagWord) : Nat → Option Node → List (Option Node) → Option Node
  | 0, acc, _ => acc
  | fuel + 1, acc, xs =>
    if xs.isEmpty then acc
    else
      let t := treeFold op 8 (xs.take 256)
      let acc' : Option Node := match acc, t with
        | none, y => y
        | x, none => x
        | some (a, fa), some (b, fb) =>
          let (v, f) := op a b
          some (v, fa ||| fb ||| f)
      blocksFold op fuel acc' (xs.drop 256)

/-- The fold of a whole line (R124 to R127). -/
def lineFold (op : Val → Val → Val × FlagWord) (xs : List (Option Node)) : Option Node :=
  blocksFold op (xs.length + 1) none xs

/-- A rounded add as a tree node (R94, R111): NV on a NaN, OVF and UZ of the rounding. -/
def nodeAdd (a b : Val) : Val × FlagWord :=
  let (c, f) := round32 (a.add b)
  (f32 c, f)

/-- MAX as a tree node (R95, R111). -/
def nodeMax (a b : Val) : Val × FlagWord :=
  let v := a.maxV b
  (v, if v == .nan then flagNV else 0)

/-- MIN as a tree node (R95, R111). -/
def nodeMin (a b : Val) : Val × FlagWord :=
  let v := a.minV b
  (v, if v == .nan then flagNV else 0)

end Sys2Proof.Machine
end

