-- ==== Sys2Proof/Machine/Layout.lean ====
section
/-! DEFINITION. How tensors lie in bytes (R5, R38, R41, R42, R141): little-endian words, densely packed elements,
rows at a pitch of a multiple of 64 bytes, dense scale planes. -/
namespace Sys2Proof.Machine

/-- A reader of one byte. -/
abbrev Reader := Nat → Byte

/-- `n` bytes from `a`. -/
def readList (rd : Reader) (a n : Nat) : List Byte := (List.range n).map (fun i => rd (a + i))

/-- The natural number a byte list spells, first byte least significant (R5). -/
def leVal : List Byte → Nat
  | [] => 0
  | b :: bs => b.toNat + 256 * leVal bs

/-- The little-endian number in `n` bytes at `a`. -/
def leNat (rd : Reader) (a n : Nat) : Nat := leVal (readList rd a n)

/-- `n` bytes of a number, least significant first. -/
def leBytes : Nat → Nat → List Byte
  | 0, _ => []
  | n + 1, v => BitVec.ofNat 8 v :: leBytes n (v / 256)

/-- Rounds up to a multiple of 64. -/
def up64 (n : Nat) : Nat := ceilDiv n 64 * 64

/-- Bytes of a packed row of `n` elements of format `f` (R38). -/
def rowBytes (f : Fmt) (n : Nat) : Nat := ceilDiv (n * f.width) 8

/-- The pitch of R141. -/
def pitch (f : Fmt) (n : Nat) : Nat := up64 (rowBytes f n)

/-- The code of element `i` of the packed run at `base` (R38). -/
def elemCode (rd : Reader) (f : Fmt) (base i : Nat) : Nat :=
  let b := i * f.width
  leNat rd (base + b / 8) (ceilDiv (b % 8 + f.width) 8) / 2 ^ (b % 8) % 2 ^ f.width

/-- Packs codes densely from bit 0 (R38), as one number. -/
def packNat (w : Nat) (codes : List Nat) : Nat := codes.foldr (fun c acc => c % 2 ^ w + 2 ^ w * acc) 0

/-- The bytes of densely packed codes; bits after the last code are zero. -/
def packCodes (f : Fmt) (codes : List Nat) : List Byte :=
  leBytes (rowBytes f codes.length) (packNat f.width codes)

/-- Groups in a row of length `k` (R41); none when unscaled. -/
def groupsOf (t : Tf) (k : Nat) : Nat := if t.sk = .none then 0 else ceilDiv k t.gsize

/-- A stored tensor: its planes and format (R41, R141). -/
structure Plane where
  addr : Nat
  saddr : Nat
  tf : Tf
  texp : Byte
  cols : Nat
  deriving DecidableEq, Repr

/-- Bytes of the element plane of `rows` rows: to the end of the last row's packed length. -/
def Plane.size (p : Plane) (rows : Nat) : Nat :=
  if rows = 0 then 0 else (rows - 1) * pitch p.tf.fmt p.cols + rowBytes p.tf.fmt p.cols

/-- Bytes of the scale plane of `rows` rows. -/
def Plane.ssize (p : Plane) (rows : Nat) : Nat := rows * groupsOf p.tf p.cols

/-- The element code at (i, k). -/
def Plane.code (rd : Reader) (p : Plane) (i k : Nat) : Nat :=
  elemCode rd p.tf.fmt (p.addr + i * pitch p.tf.fmt p.cols) k

/-- The scale code of the group of (i, k) (R41). -/
def Plane.scaleCode (rd : Reader) (p : Plane) (i k : Nat) : Nat :=
  if p.tf.sk = .none then 0 else (rd (p.saddr + i * groupsOf p.tf p.cols + k / p.tf.gsize)).toNat

/-- The decoded value at (i, k) (R43), exact. -/
def Plane.val (rd : Reader) (p : Plane) (i k : Nat) : Val :=
  scaleVal (decodeScale p.tf.sk p.texp (p.scaleCode rd i k)) (decodeElem p.tf.fmt (p.code rd i k))

/-- Codes of the zero elements a scaled row ends with: those positions at and above K in the last
group that lie within the pitch (R42). -/
def padCodes (t : Tf) (k : Nat) : Nat :=
  if t.sk = .none then 0
  else min (ceilDiv k t.gsize * t.gsize) (pitch t.fmt k * 8 / t.fmt.width) - k

end Sys2Proof.Machine
end

