-- ==== Sys2Proof/Machine/Operands.lean ====
section
/-! DEFINITION. Operand forms (R60, R80, R100, R124, R130, R136, R310): the shapes a command's fields give and the
tensor planes its operands are. A dimension field written X−1 holds one less than the value
(R218). -/
namespace Sys2Proof

/-- M of an MMA. -/
def MmaCmd.m (c : MmaCmd) : Nat := c.m1.toNat + 1
/-- N of an MMA. -/
def MmaCmd.n (c : MmaCmd) : Nat := c.n1.toNat + 1
/-- M of a MEW. -/
def MewCmd.m (c : MewCmd) : Nat := c.m1.toNat + 1
/-- N of a MEW. -/
def MewCmd.n (c : MewCmd) : Nat := c.n1.toNat + 1
/-- M of an LRA. -/
def LraCmd.m (c : LraCmd) : Nat := c.m1.toNat + 1
/-- N of an LRA. -/
def LraCmd.n (c : LraCmd) : Nat := c.n1.toNat + 1
/-- RANK of an LRA. -/
def LraCmd.rank (c : LraCmd) : Nat := c.rank1.toNat + 1
/-- ROWS of a VPROG. -/
def VprogCmd.rows (c : VprogCmd) : Nat := c.rows1.toNat + 1
/-- COLS of a VPROG. -/
def VprogCmd.cols (c : VprogCmd) : Nat := c.cols1.toNat + 1
/-- The input slots of a VPROG. -/
def VprogCmd.ins (c : VprogCmd) : List InSlot := [c.i0, c.i1, c.i2, c.i3]
/-- The output slots of a VPROG. -/
def VprogCmd.outs (c : VprogCmd) : List OutSlot := [c.o0, c.o1]
/-- ROWS of a QNT. -/
def QntCmd.rows (c : QntCmd) : Nat := c.rows1.toNat + 1
/-- COLS of a QNT: the reduction length K. -/
def QntCmd.cols (c : QntCmd) : Nat := c.cols1.toNat + 1
/-- ROWS of a DQT. -/
def DqtCmd.rows (c : DqtCmd) : Nat := c.rows1.toNat + 1
/-- COLS of a DQT. -/
def DqtCmd.cols (c : DqtCmd) : Nat := c.cols1.toNat + 1
/-- ROWS of a VRED. -/
def VredCmd.rows (c : VredCmd) : Nat := c.rows1.toNat + 1
/-- COLS of a VRED. -/
def VredCmd.cols (c : VredCmd) : Nat := c.cols1.toNat + 1
/-- ROWS of a MOVE. -/
def MoveCmd.rows (c : MoveCmd) : Nat := c.rows1.toNat + 1
/-- ROWS of a DIG. -/
def DigCmd.rows (c : DigCmd) : Nat := c.rows1.toNat + 1
/-- NIDX of a GATH. -/
def GathCmd.nidx (c : GathCmd) : Nat := c.nidx1.toNat + 1
/-- NTAG of a tag word. -/
def Tags.ntag (t : Tags) : Nat := t.n1.toNat + 1

/-- Rows stored by a VPROG input (R100). -/
def InSlot.storedRows (s : InSlot) (rows : Nat) : Nat := if s.bcast.toNat = 0 then rows else 1

/-- The stored element an input delivers to (i, j) (R100). -/
def InSlot.elem (s : InSlot) (i j : Nat) : Nat × Nat :=
  match s.bcast.toNat with
  | 0 => (i, j)
  | 1 => (0, i)
  | 2 => (0, j)
  | _ => (0, 0)

end Sys2Proof

namespace Sys2Proof.Machine

/-- Operand A of MMA. -/
def mmaA (c : MmaCmd) (t : Tf) : Plane := ⟨c.aaddr.toNat, c.asaddr.toNat, t, c.atexp, c.k.toNat⟩
/-- Operand B of MMA. -/
def mmaB (c : MmaCmd) (t : Tf) : Plane := ⟨c.baddr.toNat, c.bsaddr.toNat, t, c.btexp, c.k.toNat⟩
/-- Operand A of MEW: N innermost (R80). -/
def mewA (c : MewCmd) (t : Tf) : Plane := ⟨c.aaddr.toNat, c.asaddr.toNat, t, c.atexp, c.n⟩
/-- Operand B of MEW. -/
def mewB (c : MewCmd) (t : Tf) : Plane := ⟨c.baddr.toNat, c.bsaddr.toNat, t, c.btexp, c.n⟩
/-- X of LRA (R310). -/
def lraX (c : LraCmd) (t : Tf) : Plane := ⟨c.xaddr.toNat, c.xsaddr.toNat, t, c.xtexp, c.k.toNat⟩

/-- D_s of LRA (R310). -/
def lraD (c : LraCmd) (t : Tf) (s : Nat) : Plane :=
  ⟨c.daddr.toNat + s * c.rank * pitch t.fmt c.k.toNat,
   c.dsaddr.toNat + s * c.rank * groupsOf t c.k.toNat, t, c.dtexp, c.k.toNat⟩

/-- U_s of LRA (R310). -/
def lraU (c : LraCmd) (t : Tf) (s : Nat) : Plane :=
  ⟨c.uaddr.toNat + s * c.n * pitch t.fmt c.rank,
   c.usaddr.toNat + s * c.n * groupsOf t c.rank, t, c.utexp, c.rank⟩

/-- The plane of a VPROG input by its broadcast mode and the VPROG's shape (R100). -/
def inPlane (s : InSlot) (t : Tf) (rows cols : Nat) : Plane :=
  let k := match s.bcast.toNat with
    | 0 => cols
    | 1 => rows
    | 2 => cols
    | _ => 1
  ⟨s.addr.toNat, s.saddr.toNat, t, s.texp, k⟩

/-- An unscaled plane of format `f`. -/
def rawPlane (addr : Nat) (f : Fmt) (cols : Nat) : Plane := ⟨addr, 0, ⟨f, .none, 32⟩, 0, cols⟩

/-- The source of QNT (R130). -/
def qntSrc (c : QntCmd) (f : Fmt) : Plane := rawPlane c.saddr.toNat f c.cols
/-- The destination of QNT. -/
def qntDst (c : QntCmd) (t : Tf) : Plane := ⟨c.daddr.toNat, c.dsaddr.toNat, t, c.dtexp, c.cols⟩
/-- The source of DQT (R136). -/
def dqtSrc (c : DqtCmd) (t : Tf) : Plane := ⟨c.saddr.toNat, c.ssaddr.toNat, t, c.stexp, c.cols⟩
/-- The destination of DQT. -/
def dqtDst (c : DqtCmd) (f : Fmt) : Plane := rawPlane c.daddr.toNat f c.cols
/-- The source of VRED (R124). -/
def vredSrc (c : VredCmd) (t : Tf) : Plane := ⟨c.saddr.toNat, c.ssaddr.toNat, t, c.stexp, c.cols⟩

/-- Values a VRED writes (R124). -/
def vredOut (c : VredCmd) : Nat := if c.axis then c.cols else c.rows

end Sys2Proof.Machine
end

