-- ==== Sys2Proof/Machine/Pack.lean ====
section
/-! DEFINITION. Activation compression (R171 to R174) and the element transpose of R157: pure functions on bytes. -/
namespace Sys2Proof.Machine

/-- The parameters of one block (R172). -/
structure BlkPar where
  ebase : Nat
  w : Nat
  z : Bool
  deriving DecidableEq, Repr

/-- The exponent field of a code. -/
def expField (f : Fmt) (c : Nat) : Nat := c / 2 ^ f.mbits % 2 ^ f.ebits

/-- Sign above mantissa (R173). -/
def signMant (f : Fmt) (c : Nat) : Nat :=
  c / f.signBit % 2 * 2 ^ f.mbits + c % 2 ^ f.mbits

/-- The smallest W below `fuel` with span ≤ 2^W − back. -/
def leastW (span back : Nat) : Nat → Nat → Nat
  | 0, w => w
  | fuel + 1, w => if span + back ≤ 2 ^ w then w else leastW span back fuel (w + 1)

/-- Smallest of a list, `d` when empty. -/
def minL (d : Nat) (xs : List Nat) : Nat := xs.foldl min d

/-- EBASE, W and Z of a block's exponents (R172). -/
def blkPar (f : Fmt) (xs : List Nat) : BlkPar :=
  let x0 := xs.headD 0
  if xs.all (· == x0) then ⟨x0, 0, false⟩
  else
    let n := xs.filter (· != 0)
    let zero := xs.contains 0
    let lo := if zero then minL 256 n else minL 256 xs
    let hi := xs.foldl max 0
    let w := leastW (hi - lo) (if zero then 2 else 1) 9 0
    if f.ebits ≤ w then ⟨0, f.ebits, false⟩ else ⟨lo, w, zero⟩

/-- The residual of an exponent (R172). -/
def residual (p : BlkPar) (e : Nat) : Nat := if p.z && e == 0 then 2 ^ p.w - 1 else e - p.ebase

/-- A block's header word (R173). -/
def blkHeader (p : BlkPar) : Nat := (if p.z then 4096 else 0) + p.w * 256 + p.ebase

/-- Bytes of a sign-mantissa plane (R173). -/
def smBytes (f : Fmt) : Nat := 32 * (1 + f.mbits)

/-- One block of 256 codes as bytes (R173). -/
def packBlock (f : Fmt) (cs : List Nat) : List Byte :=
  let es := cs.map (expField f)
  let p := blkPar f es
  leBytes 4 (blkHeader p)
    ++ leBytes (smBytes f) (packNat (1 + f.mbits) (cs.map (signMant f)))
    ++ leBytes (32 * p.w) (packNat p.w (es.map (residual p)))

/-- Blocks of 256 codes, the last padded with +0 (R171); `fuel` bounds them. -/
def blocksOf : Nat → List Nat → List (List Nat)
  | 0, _ => []
  | n + 1, cs =>
    if cs.isEmpty then []
    else (cs.take 256 ++ List.replicate (256 - cs.length) 0) :: blocksOf n (cs.drop 256)

/-- The FMT code of the formats PACK takes (R32, R171). -/
def packFmtCode : Fmt → Nat
  | .fp32 => 0
  | .bf16 => 1
  | _ => 2

/-- Running offsets of parts. -/
def offsets : Nat → List (List Byte) → List Nat
  | _, [] => []
  | o, b :: bs => o :: offsets (o + b.length) bs

/-- The packed stream of codes (R174). -/
def packStream (f : Fmt) (codes : List Nat) : List Byte :=
  let bs := (blocksOf (codes.length + 1) codes).map (packBlock f)
  leBytes 4 (packFmtCode f) ++ leBytes 4 codes.length ++ leBytes 4 bs.length
    ++ List.replicate 52 0
    ++ (offsets (64 + 4 * bs.length) bs).flatMap (leBytes 4)
    ++ bs.flatten

/-- The greatest length of a packed stream of `n` elements (R174). -/
def packMax (f : Fmt) (n : Nat) : Nat :=
  let nb := ceilDiv n 256
  64 + 4 * nb + nb * (4 + smBytes f + 32 * f.ebits)

/-- The format a stream header names, among those PACK writes. -/
def packFmtOf (code : Nat) : Option Fmt :=
  match code with
  | 0 => some .fp32
  | 1 => some .bf16
  | 2 => some .fp16
  | _ => none

/-- `n` bits at bit offset `b` of the bytes at `a`. -/
def bitsAt (rd : Reader) (a b n : Nat) : Nat :=
  leNat rd (a + b / 8) (ceilDiv (b % 8 + n) 8) / 2 ^ (b % 8) % 2 ^ n

/-- Element `i` of the stream at `a` (R172 to R174). -/
def unpackElem (rd : Reader) (a : Nat) (f : Fmt) (i : Nat) : Nat :=
  let blk := a + leNat rd (a + 64 + 4 * (i / 256)) 4
  let h := leNat rd blk 4
  let w := bits h 11 8
  let sm := bitsAt rd (blk + 4) (i % 256 * (1 + f.mbits)) (1 + f.mbits)
  let r := bitsAt rd (blk + 4 + smBytes f) (i % 256 * w) w
  let e := if bitAt h 12 && r == 2 ^ w - 1 then 0 else bits h 7 0 + r
  sm / 2 ^ f.mbits * f.signBit + e % 2 ^ f.ebits * 2 ^ f.mbits + sm % 2 ^ f.mbits

/-- The length of a packed stream as its directory and last block give it (R173, R174). -/
def packedLen (src : List Byte) : Nat :=
  let rd : Reader := fun a => src.getD a 0
  let nb := leNat rd 8 4
  if nb = 0 then 64
  else
    let last := leNat rd (64 + 4 * (nb - 1)) 4
    let w := bits (leNat rd last 4) 11 8
    let sm := match packFmtOf (leNat rd 0 4) with
      | some f => smBytes f
      | none => 0
    last + 4 + sm + 32 * w

/-- Element `i` of `es` bytes of a byte list. -/
def bytesAt (bs : List Byte) (es i : Nat) : List Byte := (bs.drop (i * es)).take es

/-- The rows of the transpose of R157: `rows` × `cols` elements of `es` bytes each. -/
def transposeRows (es : Nat) (src : List (List Byte)) (cols : Nat) : List (List Byte) :=
  (List.range cols).map (fun j => src.flatMap (fun r => bytesAt r es j))

/-- A list cut into codes of `es` bytes; `fuel` bounds them. -/
def codesOf (es : Nat) : Nat → List Byte → List Nat
  | 0, _ => []
  | n + 1, bs => if bs.isEmpty then [] else leVal (bs.take es) :: codesOf es n (bs.drop es)

end Sys2Proof.Machine
end

