-- ==== Sys2Proof/Machine/Rng.lean ====
section
/-! DEFINITION. The random generator (R242 to R247): Philox4x32-10, its key, its counter words and the
value each element takes. -/
namespace Sys2Proof.Machine

/-- High and low words of a 32 by 32 bit product. -/
def mulhilo (a b : Word) : Word × Word :=
  let p := a.toNat * b.toNat
  (BitVec.ofNat 32 (p / 2 ^ 32), BitVec.ofNat 32 p)

/-- A block of four words. -/
structure Blk where
  x0 : Word
  x1 : Word
  x2 : Word
  x3 : Word
  deriving DecidableEq, Repr

/-- One round of R242. -/
def philoxRound (k0 k1 : Word) (c : Blk) : Blk :=
  let p0 := mulhilo 0xd2511f53 c.x0
  let p1 := mulhilo 0xcd9e8d57 c.x2
  ⟨p1.1 ^^^ c.x1 ^^^ k0, p1.2, p0.1 ^^^ c.x3 ^^^ k1, p0.2⟩

/-- `n` rounds, the key stepping after each. -/
def philoxRounds : Nat → Word → Word → Blk → Blk
  | 0, _, _, c => c
  | n + 1, k0, k1, c => philoxRounds n (k0 + 0x9e3779b9) (k1 + 0xbb67ae85) (philoxRound k0 k1 c)

/-- Philox4x32-10 (R242). -/
def philox (k0 k1 : Word) (c : Blk) : Blk := philoxRounds 10 k0 k1 c

/-- What names a draw before the element's own words: the 64-bit key of R243, c3 and c2 of R244. -/
structure DrawKey where
  key : DWord
  c3 : Word
  c2 : Word
  deriving DecidableEq, Repr

/-- The key of R243. -/
def drawKey (seed : DWord) (stream : Word) (c3 c2 : Word) : DrawKey :=
  ⟨seed + stream.setWidth 64, c3, c2⟩

/-- The block for counter words c0 and c1. -/
def drawBlock (d : DrawKey) (c0 c1 : Word) : Blk :=
  philox (d.key.setWidth 32) ((d.key >>> 32).setWidth 32) ⟨c0, c1, d.c2, d.c3⟩

/-- Word `i` mod 4 of a block. -/
def Blk.get (b : Blk) (i : Nat) : Word :=
  match i % 4 with
  | 0 => b.x0
  | 1 => b.x1
  | 2 => b.x2
  | _ => b.x3

/-- The 16-bit value of column `col` in a block (R246). -/
def half16 (b : Blk) (col : Nat) : Nat :=
  let h := col % 8
  let x := (b.get (h / 2)).toNat
  if h % 2 = 0 then x % 65536 else x / 65536

/-- SR draw of a QNT, DQT or VPROG element (R245 kinds 0b00 and 0b11). -/
def drawElem (d : DrawKey) (o1 : Bool) (row col : Nat) : Nat :=
  half16 (drawBlock d (BitVec.ofNat 32 ((if o1 then 3 * 2 ^ 30 else 0) + bits col 31 3))
    (BitVec.ofNat 32 row)) col

/-- RND word of a VPROG element (R245 kind 0b01, R246). -/
def drawRnd (d : DrawKey) (row col : Nat) : Word :=
  (drawBlock d (BitVec.ofNat 32 (2 ^ 30 + bits col 31 2)) (BitVec.ofNat 32 row)).get (col % 4)

/-- SR draw of an accumulator add (R245 kind 0b10) at chain beat-group index `g`. -/
def drawAcc (d : DrawKey) (row col g : Nat) : Nat :=
  half16 (drawBlock d
    (BitVec.ofNat 32 (2 * 2 ^ 30 + bits col 7 3 * 2 ^ 25 + g % 2 ^ 24))
    (BitVec.ofNat 32 (row % 2 ^ 20 * 2 ^ 12 + bits col 19 8))) col

end Sys2Proof.Machine
end

