-- ==== Sys2Proof/Machine/Matrix.lean ====
section
/-! DEFINITION. What MMA, MEW and LRA compute (R60 to R74, R80, R82, R310, R311): pure functions from what the
command reads to the bytes it writes and the flags it raises. -/
namespace Sys2Proof.Machine

/-- What a compute command does to its own core: byte runs by core address, its sticky flags, and
softmax rows counted as fully masked. -/
structure CoreEff where
  writes : List (Nat × List Byte)
  flags : FlagWord
  fm : Nat
  deriving DecidableEq, Repr

/-- Products per beat by the wider operand (R62); none for an FP32 operand. -/
def prodsPerBeat (a b : Fmt) : Option Nat :=
  if a == .fp32 || b == .fp32 then none
  else
    let w := max a.width b.width
    some (if w = 16 then 2 else if w = 8 then 4 else 8)

/-- The exact sum of a beat group's products (R64, R65, R67): starting from −0 keeps −0 exactly
when every product is −0. -/
def groupSum (ps : List (Val × Val)) : Val :=
  ps.foldl (fun s p => s.add (p.1.mul p.2)) (.fin true 0 0)

/-- One accumulator add (R66, R67, R68). -/
def accAdd (rm : Rnd) (c s : Val) : Val × Nat × FlagWord :=
  let (code, f) := store .fp32 rm true (c.add s)
  (f32 code, code, f)

/-- A cell: its value, its code and the flags so far. -/
abbrev Cell3 := Val × Nat × FlagWord

/-- Adds group sums in ascending order (R69), `rnd g` giving the rounding of group g. -/
def accRun (rnd : Nat → Rnd) : Nat → Cell3 → List Val → Cell3
  | _, c, [] => c
  | g, (v, _, f), s :: ss =>
    let (v', code', f') := accAdd (rnd g) v s
    accRun rnd (g + 1) (v', code', f ||| f') ss

/-- The group sums of a reduction of length `k` with `p` products per beat (R63). -/
def groupSums (p k : Nat) (a b : Nat → Val) : List Val :=
  (List.range (ceilDiv k p)).map (fun g =>
    groupSum ((List.range (min p (k - g * p))).map (fun t => (a (g * p + t), b (g * p + t)))))

/-- The core address of cell (i, j) of a bank (R73). -/
def cellAddr (bank : Bool) (i j : Nat) : Nat :=
  0x600000 + (if bank then 0x10000 else 0) + 512 * i + 4 * j

/-- The FP32 code a cell starts at (R67). -/
def cellStart (rd : Reader) (bank clr : Bool) (i j : Nat) : Nat :=
  if clr then 0x80000000 else leNat rd (cellAddr bank i j) 4

/-- The rounding of an accumulator add: SR draws at chain beat-group index `g` (R72). -/
def accRnd (sr : Bool) (d : DrawKey) (row col g : Nat) : Rnd :=
  if sr then .sr (drawAcc d row col g) else .rne

/-- Rows of cells as byte runs, with the OR of their flags. -/
def cellRows (bank : Bool) (m n : Nat) (cell : Nat → Nat → Nat × FlagWord) : CoreEff :=
  let rows := (List.range m).map (fun i =>
    let cs := (List.range n).map (cell i)
    ((cellAddr bank i 0, cs.flatMap (fun c => leBytes 4 c.1)), cs.foldl (fun f c => f ||| c.2) 0))
  ⟨rows.map (·.1), rows.foldl (fun f r => f ||| r.2) 0, 0⟩

/-- MMA (R60 to R72). -/
def mmaEff (rd : Reader) (d : DrawKey) (c : MmaCmd) (ta tb : Tf) (p : Nat) : CoreEff :=
  cellRows c.bank c.m c.n (fun i j =>
    let s0 := cellStart rd c.bank c.clr i j
    let r := accRun
      (fun g => accRnd c.rmode d (c.roff.toNat + i) (c.coff.toNat + j) (c.koff.toNat / p + g))
      0 (f32 s0, s0, 0)
      (groupSums p c.k.toNat ((mmaA c ta).val rd i) ((mmaB c tb).val rd j))
    (r.2.1, r.2.2))

/-- The entry sum of row `i` of an operand (R82): element codes and each scale byte once. -/
def entrySum (rd : Reader) (pl : Plane) (i : Nat) : Nat :=
  let es := (List.range pl.cols).foldl (fun s k => s + pl.code rd i k) 0
  let ss := (List.range (groupsOf pl.tf pl.cols)).foldl
    (fun s g => s + pl.scaleCode rd i (g * pl.tf.gsize)) 0
  (es + ss) % 65536

/-- The entry sums of an MMA: rows of A, then rows of B (R82). -/
def mmaSums (rd : Reader) (c : MmaCmd) (ta tb : Tf) : List Nat × List Nat :=
  ((List.range c.m).map (entrySum rd (mmaA c ta)), (List.range c.n).map (entrySum rd (mmaB c tb)))

/-- MEW (R80). -/
def mewEff (rd : Reader) (d : DrawKey) (c : MewCmd) (ta tb : Tf) : CoreEff :=
  cellRows c.bank c.m c.n (fun i j =>
    let s0 := cellStart rd c.bank c.clr i j
    let r := accRun (fun _ => accRnd c.rmode d (c.roff.toNat + i) (c.coff.toNat + j) 0)
      0 (f32 s0, s0, 0) [groupSum [((mewA c ta).val rd i j, (mewB c tb).val rd i j)]]
    (r.2.1, r.2.2))

/-- The slot of row i (R310). -/
def lraSlot (rd : Reader) (c : LraCmd) (i : Nat) : Nat := leNat rd (c.iaddr.toNat + 2 * i) 2

/-- H[i][r] of stage 1 and its flags (R311): accumulated as by an MMA cell with CLR = 1 and RNE, then
rounded to BF16. -/
def lraH (rd : Reader) (c : LraCmd) (tx td : Tf) (p1 i s r : Nat) : Val × FlagWord :=
  let a := accRun (fun _ => .rne) 0 (f32 0x80000000, 0x80000000, 0)
    (groupSums p1 c.k.toNat ((lraX c tx).val rd i) ((lraD c td s).val rd r))
  let (code, f) := store .bf16 .rne true a.1
  (decodeElem .bf16 code, a.2.2 ||| f)

/-- LRA (R311). -/
def lraEff (rd : Reader) (d : DrawKey) (c : LraCmd) (tx td tu : Tf) (p1 : Nat) : CoreEff :=
  let rows := (List.range c.m).map (fun i =>
    let s := lraSlot rd c i
    if s = 0xFFFF then
      let cs := (List.range c.n).map (fun j => (cellStart rd c.bank c.clr i j, (0 : FlagWord)))
      (cs, (0 : FlagWord))
    else
      let hs := (List.range c.rank).map (lraH rd c tx td p1 i s)
      let h := fun r => (hs.getD r (.nan, 0)).1
      let cs := (List.range c.n).map (fun j =>
        let s0 := cellStart rd c.bank c.clr i j
        let r := accRun
          (fun g => accRnd c.rmode d (c.roff.toNat + i) (c.coff.toNat + j) g) 0 (f32 s0, s0, 0)
          (groupSums 2 c.rank h ((lraU c tu s).val rd j))
        (r.2.1, r.2.2))
      (cs, hs.foldl (fun f x => f ||| x.2) 0))
  ⟨(List.range rows.length).map (fun i =>
      (cellAddr c.bank i 0, ((rows.getD i ([], 0)).1).flatMap (fun x => leBytes 4 x.1))),
   rows.foldl (fun f r => f ||| r.2 ||| r.1.foldl (fun g x => g ||| x.2) 0) 0, 0⟩

/-- Occupancies in beats (R78, R81, R312). -/
def mmaOcc (c : MmaCmd) (p : Nat) : Nat := ceilDiv c.k.toNat p
/-- MEW's occupancy (R81). -/
def mewOcc (c : MewCmd) (p : Nat) : Nat := ceilDiv (c.m * c.n) (128 * p)
/-- LRA's occupancy (R312). -/
def lraOcc (c : LraCmd) (p1 : Nat) : Nat :=
  ceilDiv c.rank 16 * ceilDiv c.k.toNat p1 + 8 * ceilDiv c.rank 2

end Sys2Proof.Machine
end

