-- ==== Sys2Proof/Machine/Special.lean ====
section
/-! DEFINITION. The special functions of R98 and R99, correctly rounded. DIV, RCP, SQRT and RSQRT are rounded
from exact integers; the others from a lower and an upper bound in units of 2^−512: both bounds
rounding to one code decides it, and a code they do not decide is `Config.undecidedSpecial` (log
entry 3). -/
namespace Sys2Proof.Machine

/-- Fraction bits of the bounds. -/
def spQ : Nat := 512

/-- One in those units. -/
def spOne : Nat := 2 ^ spQ

/-- A closed interval of naturals in units of 2^−512. -/
structure Ivl where
  lo : Nat
  hi : Nat
  deriving DecidableEq, Repr

namespace Ivl

/-- Sum. -/
def add (a b : Ivl) : Ivl := ⟨a.lo + b.lo, a.hi + b.hi⟩

/-- Product. -/
def mul (a b : Ivl) : Ivl := ⟨a.lo * b.lo / spOne, a.hi * b.hi / spOne + 1⟩

/-- Difference, where a is the larger. -/
def sub (a b : Ivl) : Ivl := ⟨a.lo - b.hi, a.hi - b.lo⟩

/-- Quotient. -/
def div (a b : Ivl) : Ivl := ⟨a.lo * spOne / b.hi, a.hi * spOne / b.lo + 1⟩

/-- A natural number. -/
def ofNat (n : Nat) : Ivl := ⟨n * spOne, n * spOne⟩

/-- Squared `n` times. -/
def squares : Nat → Ivl → Ivl
  | 0, a => a
  | n + 1, a => squares n (a.mul a)

end Ivl

/-- Terms of the series of e^y − 1 from y^n ÷ n! on, each cut down. -/
def expTerms (y : Nat) : Nat → Nat → Nat → Nat
  | 0, _, _ => 0
  | fuel + 1, n, t =>
    let t' := t * y / (spOne * n)
    t' + expTerms y fuel (n + 1) t'

/-- e^y for 0 ≤ y < 512, y in units: e^(y ÷ 2^20) by its series, then squared twenty times. -/
def expIvl (y : Nat) : Ivl :=
  let z := y / 2 ^ 20
  let s := spOne + expTerms z 64 1 spOne
  -- the cut of y and of the terms, and the tail, stay below 200 units
  Ivl.squares 20 ⟨s, s + 200⟩

/-- Terms of Σ x^(2i+1) ÷ (2i+1), alternating when `alt`; x² in units. -/
def atanTerms (alt : Bool) (x2 : Nat) : Nat → Nat → Nat → Int
  | 0, _, _ => 0
  | fuel + 1, i, p =>
    let t : Int := (p / (2 * i + 1) : Nat)
    (if alt && i % 2 == 1 then -t else t) + atanTerms alt x2 fuel (i + 1) (p * x2 / spOne)

/-- atanh of n ÷ d for 3n ≤ d. -/
def atanhIvl (n d : Nat) : Ivl :=
  let x := n * spOne / d
  let s := (atanTerms false (x * x / spOne) 200 0 x).toNat
  ⟨s, s + 2000⟩

/-- atan of 1 ÷ d for d at least 5. -/
def atanInv (d : Nat) : Ivl :=
  let x := spOne / d
  let s := (atanTerms true (x * x / spOne) 200 0 x).toNat
  ⟨s - 2000, s + 2000⟩

/-- ln 2. -/
def ln2Ivl : Ivl := (Ivl.ofNat 2).mul (atanhIvl 1 3)

/-- π by Machin's formula. -/
def piIvl : Ivl := ((Ivl.ofNat 16).mul (atanInv 5)).sub ((Ivl.ofNat 4).mul (atanInv 239))

/-- ln of m ÷ 2^b for 2^b ≤ m < 2^(b+1). -/
def lnMant (m b : Nat) : Ivl := (Ivl.ofNat 2).mul (atanhIvl (m - 2 ^ b) (m + 2 ^ b))

/-- Square root of a value in units. -/
def sqrtIvl (a : Ivl) : Ivl := ⟨Nat.sqrt (a.lo * spOne), Nat.sqrt (a.hi * spOne) + 1⟩

/-- Terms x^(2i+1) ÷ (1·3·…·(2i+1)) of the normal distribution function. -/
def phiTerms (x2 : Nat) : Nat → Nat → Nat → Nat
  | 0, _, _ => 0
  | fuel + 1, i, t => t + phiTerms x2 fuel (i + 1) (t * x2 / (spOne * (2 * i + 3)))

/-- Φ(x) − 1/2 for 0 ≤ x ≤ 16, x in units. -/
def phiHalf (x : Nat) : Ivl :=
  let x2 := x * x / spOne
  let s := phiTerms x2 760 0 x
  let e := expIvl (x2 / 2)
  let root := sqrtIvl ((Ivl.ofNat 2).mul piIvl)
  let den := Ivl.mul ⟨e.lo, e.hi + e.hi / 2 ^ 500 + 2⟩ root
  Ivl.div ⟨s, s + s / 2 ^ 490 + 4000⟩ den

/-- x = m × 2^e in units, cut down (exact whenever e ≥ −512). -/
def inQ (m : Nat) (e : Int) : Nat := m * 2 ^ (e + spQ).toNat / 2 ^ (-(e + spQ)).toNat

/-- The FP32 code and flags that both bounds of a positive magnitude times k × 2^e agree on. Log entry 3: DESIGN
CHOICE. -/
def roundIvl (op code : Nat) (neg : Bool) (iv : Ivl) (k : Nat) (e : Int) : Nat × FlagWord :=
  let r := fun n => store .fp32 .rne true (.fin neg (max n 1 * k) (e - spQ))
  if r iv.lo = r iv.hi then r iv.lo
  else (Config.undecidedSpecial op code % 2 ^ 32, 0)

/-- A magnitude far below the least subnormal: the zero of its sign, UZ. -/
def tiny32 (neg : Bool) : Nat × FlagWord := store .fp32 .rne true (.fin neg 1 (-400))

/-- A magnitude beyond FP32: infinity, OVF. -/
def huge32 (neg : Bool) : Nat × FlagWord := store .fp32 .rne true (.fin neg 1 400)

/-- Whether m × 2^e ≥ n. -/
def atLeast (m : Nat) (e : Int) (n : Nat) : Bool := magLe n 0 m e

/-- Result NaN with NV. -/
def nan32 : Nat × FlagWord := (Fmt.fp32.nanCode, flagNV)

/-- A signed infinity with given flags. -/
def inf32 (neg : Bool) (f : FlagWord) : Nat × FlagWord := (withSign .fp32 neg Fmt.fp32.infCode, f)

/-- A signed zero, no flag. -/
def zero32 (neg : Bool) : Nat × FlagWord := (withSign .fp32 neg 0, 0)

/-- The code of 1.0 with a sign. -/
def one32 (neg : Bool) : Nat × FlagWord := (withSign .fp32 neg 0x3F800000, 0)

/-- e^(±y) as an interval. -/
def expSigned (neg : Bool) (y : Nat) : Ivl :=
  let e := expIvl y
  if neg then (Ivl.ofNat 1).div e else e

/-- EXP (R98, R99). -/
def fnExp (code : Nat) : Val → Nat × FlagWord
  | .nan => nan32
  | .inf s => if s then zero32 false else inf32 false 0
  | .fin s m e =>
    if m = 0 then one32 false
    else if atLeast m e 200 then (if s then tiny32 false else huge32 false)
    else roundIvl 0x10 code false (expSigned s (inQ m e)) 1 0

/-- EXP2. -/
def fnExp2 (code : Nat) : Val → Nat × FlagWord
  | .nan => nan32
  | .inf s => if s then zero32 false else inf32 false 0
  | .fin s m e =>
    if m = 0 then one32 false
    else if atLeast m e 250 then (if s then tiny32 false else huge32 false)
    else
      let x := inQ m e
      let n := x / spOne
      let f := x % spOne
      -- 2^(n + f) = 2^n × e^(f ln 2)
      if f = 0 then store .fp32 .rne true (.fin false 1 (if s then -(n : Int) else n))
      else
        let iv := Ivl.mul ⟨f, f⟩ ln2Ivl
        let p : Ivl := ⟨(expIvl iv.lo).lo, (expIvl iv.hi).hi⟩
        if s then roundIvl 0x11 code false ((Ivl.ofNat 1).div p) 1 (-(n : Int))
        else roundIvl 0x11 code false p 1 n

/-- ln or log2 of a positive m × 2^e, other than 1 (and, for log2, than a power of two). -/
def logPos (two : Bool) (code : Nat) (m : Nat) (e : Int) : Nat × FlagWord :=
  let b := m.log2
  let k : Int := e + b
  let f := lnMant m b
  let op := if two then 0x13 else 0x12
  let fr := if two then f.div ln2Ivl else f
  let unit := if two then Ivl.ofNat 1 else ln2Ivl
  if 0 ≤ k then roundIvl op code false (((Ivl.ofNat k.toNat).mul unit).add fr) 1 0
  else roundIvl op code true (((Ivl.ofNat (-k).toNat).mul unit).sub fr) 1 0

/-- Whether m is a power of two. -/
def isPow2 (m : Nat) : Bool := m == 2 ^ m.log2

/-- LOG. -/
def fnLog (code : Nat) : Val → Nat × FlagWord
  | .nan => nan32
  | .inf s => if s then nan32 else inf32 false 0
  | .fin s m e =>
    if m = 0 then inf32 true flagDZ
    else if s then nan32
    else if isPow2 m && e + m.log2 == 0 then zero32 false
    else logPos false code m e

/-- LOG2. -/
def fnLog2 (code : Nat) : Val → Nat × FlagWord
  | .nan => nan32
  | .inf s => if s then nan32 else inf32 false 0
  | .fin s m e =>
    if m = 0 then inf32 true flagDZ
    else if s then nan32
    else if isPow2 m then
      let k : Int := e + m.log2
      store .fp32 .rne true (.fin (decide (k < 0)) k.natAbs 0)
    else logPos true code m e

/-- DIV: the exact quotient rounded once. -/
def fnDiv (a b : Val) : Nat × FlagWord :=
  match a, b with
  | .nan, _ => nan32
  | _, .nan => nan32
  | .inf _, .inf _ => nan32
  | .inf s, .fin t _ _ => inf32 (s != t) 0
  | .fin s _ _, .inf t => zero32 (s != t)
  | .fin s m e, .fin t n f =>
    if n = 0 then (if m = 0 then nan32 else inf32 (s != t) flagDZ)
    else storeFin .fp32 .rne true (s != t) m n (e - f)

/-- RCP. -/
def fnRcp (a : Val) : Nat × FlagWord := fnDiv (.fin false 1 0) a

/-- SQRT, from the integer root of an even-exponent significand and whether it is exact. -/
def fnSqrt : Val → Nat × FlagWord
  | .nan => nan32
  | .inf s => if s then nan32 else inf32 false 0
  | .fin s m e =>
    if m = 0 then zero32 s
    else if s then nan32
    else
      let odd : Bool := e % 2 == 1
      let n := (if odd then 2 * m else m) * 2 ^ 80
      let e' := ((if odd then e - 1 else e) - 80) / 2
      let q := Nat.sqrt n
      storeFin .fp32 .rne true false (if q * q = n then 2 * q else 2 * q + 1) 1 (e' - 1)

/-- RSQRT. -/
def fnRsqrt : Val → Nat × FlagWord
  | .nan => nan32
  | .inf s => if s then nan32 else zero32 false
  | .fin s m e =>
    if m = 0 then inf32 s flagDZ
    else if s then nan32
    else
      let odd : Bool := e % 2 == 1
      let n := if odd then 2 * m else m
      let e' := (if odd then e - 1 else e) / 2
      let q := Nat.sqrt (2 ^ 200 / n)
      storeFin .fp32 .rne true false (if q * q * n = 2 ^ 200 then 2 * q else 2 * q + 1) 1 (-e' - 101)

/-- TANH: (e^2x − 1) ÷ (e^2x + 1). -/
def fnTanh (code : Nat) : Val → Nat × FlagWord
  | .nan => nan32
  | .inf s => one32 s
  | .fin s m e =>
    if m = 0 then zero32 s
    else if atLeast m e 20 then one32 s
    else
      let x := expIvl (2 * inQ m e)
      roundIvl 0x18 code s ((x.sub (Ivl.ofNat 1)).div (x.add (Ivl.ofNat 1))) 1 0

/-- 1 ÷ (1 + e^−x) as an interval. -/
def sigmIvl (s : Bool) (y : Nat) : Ivl := (Ivl.ofNat 1).div ((expSigned (!s) y).add (Ivl.ofNat 1))

/-- SIGM. -/
def fnSigm (code : Nat) : Val → Nat × FlagWord
  | .nan => nan32
  | .inf s => if s then zero32 false else one32 false
  | .fin s m e =>
    if m = 0 then (0x3F000000, 0)
    else if atLeast m e 200 then (if s then tiny32 false else one32 false)
    else roundIvl 0x19 code false (sigmIvl s (inQ m e)) 1 0

/-- SILU. -/
def fnSilu (code : Nat) : Val → Nat × FlagWord
  | .nan => nan32
  | .inf s => if s then zero32 true else inf32 false 0
  | .fin s m e =>
    if m = 0 then zero32 s
    else if atLeast m e 200 then
      (if s then tiny32 true else store .fp32 .rne true (.fin false m e))
    else roundIvl 0x1A code s (sigmIvl s (inQ m e)) m e

/-- GELU. -/
def fnGelu (code : Nat) : Val → Nat × FlagWord
  | .nan => nan32
  | .inf s => if s then zero32 true else inf32 false 0
  | .fin s m e =>
    if m = 0 then zero32 s
    else if atLeast m e 16 then
      (if s then tiny32 true else store .fp32 .rne true (.fin false m e))
    else
      let h : Ivl := ⟨spOne / 2, spOne / 2⟩
      let p := phiHalf (inQ m e)
      roundIvl 0x1B code s (if s then h.sub p else h.add p) m e

/-- The special functions by opcode (R93), `b` used by DIV alone. -/
def special (opc a b : Nat) : Nat × FlagWord :=
  let v := f32 a
  match opc with
  | 0x10 => fnExp a v
  | 0x11 => fnExp2 a v
  | 0x12 => fnLog a v
  | 0x13 => fnLog2 a v
  | 0x14 => fnRcp v
  | 0x15 => fnSqrt v
  | 0x16 => fnRsqrt v
  | 0x17 => fnDiv v (f32 b)
  | 0x18 => fnTanh a v
  | 0x19 => fnSigm a v
  | 0x1A => fnSilu a v
  | _ => fnGelu a v

end Sys2Proof.Machine
end

