-- ==== Sys2Proof/Machine/Vector.lean ====
section
/-! DEFINITION. What VPROG computes (R86 to R105, R120 to R123): the program block, one element, the outputs. -/
namespace Sys2Proof.Machine

/-- The program block of R89. -/
structure ProgBlock where
  form : Nat
  w16 : Bool
  res28 : Nat
  osrc1 : Nat
  osrc0 : Nat
  nout : Nat
  nin : Nat
  res11 : Nat
  ninstr : Nat
  lutgen : Nat
  res1 : Nat
  rstream : Word
  res3 : Nat
  consts : List Nat
  instrs : List Nat
  deriving DecidableEq, Repr

/-- Reads the program block (R89); NIN and NOUT as stored. -/
def readBlock (rd : Reader) (a : Nat) : ProgBlock :=
  let w0 := leNat rd a 4
  let w1 := leNat rd (a + 4) 4
  ⟨bits w0 31 30, bitAt w0 29, bits w0 28 24, bits w0 23 20, bits w0 19 16, bits w0 15 14,
   bits w0 13 12, bits w0 11 7, bits w0 6 0, bits w1 31 16, bits w1 15 0,
   BitVec.ofNat 32 (leNat rd (a + 8) 4), leNat rd (a + 12) 4,
   (List.range 16).map (fun i => leNat rd (a + 16 + 4 * i) 4),
   (List.range (bits w0 6 0)).map (fun i => leNat rd (a + 80 + 4 * i) 4)⟩

/-- An instruction word's fields (R90). -/
structure VInstr where
  opc : Nat
  dst : Nat
  sa : Nat
  sb : Nat
  sc : Nat
  md : Nat
  deriving DecidableEq, Repr

/-- Splits an instruction word (R90). -/
def VInstr.ofNat (w : Nat) : VInstr :=
  ⟨bits w 31 26, bits w 25 22, bits w 21 16, bits w 15 10, bits w 9 4, bits w 3 0⟩

/-- How many operands an opcode uses (R93); none for a reserved opcode. -/
def opArity (opc : Nat) : Option Nat :=
  if opc = 0 then some 0
  else if opc = 0x01 || opc = 0x0A || opc = 0x0B then some 3
  else if (0x02 ≤ opc && opc ≤ 0x06) || opc = 0x09 || opc = 0x17 || (0x20 ≤ opc && opc ≤ 0x26)
  then some 2
  else if opc = 0x07 || opc = 0x08 || opc = 0x0C || (0x10 ≤ opc && opc ≤ 0x16)
    || (0x18 ≤ opc && opc ≤ 0x1B) || opc = 0x27 || opc = 0x28 || opc = 0x2A then some 1
  else none

/-- Whether MOD is a value the opcode admits (R92, R95, R96, R97). -/
def modOk (opc md : Nat) : Bool :=
  if opc = 0x09 then md < 8
  else if opc = 0x0C || opc = 0x27 then md < 4
  else if opc = 0x2A then md < 2
  else md == 0

/-- Whether a selector is defined with `nin` inputs (R91, R92). -/
def selOk (nin sel : Nat) : Bool :=
  sel < 0x20 || (0x20 ≤ sel && sel < 0x20 + nin) || (0x24 ≤ sel && sel ≤ 0x27)

/-- Width-16 restrictions on an opcode and a selector (R105). -/
def w16OpOk (opc : Nat) : Bool := opc ≤ 0x0B
/-- Selectors a width-16 program may use (R105). -/
def w16SelOk (sel : Nat) : Bool := sel < 0x24 || sel == 0x27

/-- Whether an instruction is legal in a program with `nin` inputs (R92, R105). -/
def VInstr.legal (i : VInstr) (nin : Nat) (w16 : Bool) : Bool :=
  match opArity i.opc with
  | none => false
  | some n =>
    let so := fun k s => if k < n then selOk nin s && (!w16 || w16SelOk s) else s == 0
    modOk i.opc i.md && so 0 i.sa && so 1 i.sb && so 2 i.sc && (!w16 || w16OpOk i.opc)

/-- The result format of floating-point instructions: FP32, or BF16 in width-16 mode (R94, R105). -/
def laneFmt (w16 : Bool) : Fmt := if w16 then .bf16 else .fp32

/-- Rounds a lane result once, with overflow to infinity (R94). -/
def laneRound (w16 : Bool) (v : Val) : Nat × FlagWord := store (laneFmt w16) .rne true v

/-- Executes one instruction's operation on its operand codes (R93 to R97); LUT delivers `lut`. -/
def laneOp (w16 : Bool) (lut : Nat → Nat → Nat) (opc md a b c : Nat) : Nat × FlagWord :=
  let f := laneFmt w16
  let v := decodeElem f
  let one := if w16 then 0x3F80 else 0x3F800000
  let M := 2 ^ 32
  match opc with
  | 0x01 => laneRound w16 ((v a).fma (v b) (v c))
  | 0x02 => laneRound w16 ((v a).add (v b))
  | 0x03 => laneRound w16 ((v a).sub (v b))
  | 0x04 => laneRound w16 ((v a).mul (v b))
  | 0x05 => laneRound w16 ((v a).minV (v b))
  | 0x06 => laneRound w16 ((v a).maxV (v b))
  | 0x07 => laneRound w16 (v a).abs
  | 0x08 => laneRound w16 (v a).neg
  | 0x09 => (if cmpHolds md (v a) (v b) then one else 0, 0)
  | 0x0A => (if a % (f.signBit) != 0 then b else c, 0)
  | 0x0B => laneRound w16 (((v a).maxV (v b)).minV (v c))
  | 0x0C => laneRound w16 ((v a).rndi md)
  | 0x20 => ((a + b) % M, 0)
  | 0x21 => ((a + M - b % M) % M, 0)
  | 0x22 => (a &&& b, 0)
  | 0x23 => (a ||| b, 0)
  | 0x24 => (a ^^^ b, 0)
  | 0x25 => (a * 2 ^ (b % 32) % M, 0)
  | 0x26 => (a / 2 ^ (b % 32), 0)
  | 0x27 =>
    let (w, fl) := f2i md (v a)
    (w.toNat, fl)
  | 0x28 => laneRound false (.fin (decide (2 ^ 31 ≤ a)) (if 2 ^ 31 ≤ a then M - a else a) 0)
  | 0x2A => (lut (md % 2) (a % 256), 0)
  | _ => special opc a b

/-- What an element's selectors deliver: constants, inputs, coordinates, RND word (R91). -/
structure LaneEnv where
  consts : List Nat
  ins : List Nat
  row : Nat
  col : Nat
  rnd : Nat
  deriving DecidableEq, Repr

/-- The value a selector delivers (R91, R105). -/
def selVal (w16 : Bool) (env : LaneEnv) (xs : List Nat) (sel : Nat) : Nat :=
  if sel < 0x10 then xs.getD sel 0
  else if sel < 0x20 then
    let k := env.consts.getD (sel - 0x10) 0
    if w16 then k / 65536 else k
  else if sel < 0x24 then env.ins.getD (sel - 0x20) 0
  else if sel = 0x24 then env.row
  else if sel = 0x25 then env.col
  else if sel = 0x26 then env.rnd
  else 0

/-- Runs the instructions on one element (R87). -/
def laneRun (w16 : Bool) (lut : Nat → Nat → Nat) (env : LaneEnv) :
    List Nat → List Nat × FlagWord → List Nat × FlagWord
  | [], st => st
  | w :: ws, (xs, fl) =>
    let i := VInstr.ofNat w
    if i.opc = 0 then laneRun w16 lut env ws (xs, fl)
    else
      let s := selVal w16 env xs
      let (r, f) := laneOp w16 lut i.opc i.md (s i.sa) (s i.sb) (s i.sc)
      laneRun w16 lut env ws (xs.set i.dst r, fl ||| f)

/-- Sixteen registers, all +0 (R87). -/
def laneZero : List Nat := List.replicate 16 0

/-! ### Inputs (R100, R101) -/

/-- The delivered code and its flags (R101, R105). Log entry 39: DEDUCED. -/
def deliver (w16 : Bool) (v : Val) : Nat × FlagWord := laneRound w16 v

/-- Everything the elements of one VPROG share. -/
structure VCtx where
  cmd : VprogCmd
  blk : ProgBlock
  ins : List Tf
  outs : List Tf
  orn : DrawKey
  rnd : DrawKey
  deriving DecidableEq, Repr

/-- Whether input `n` is delivered to a selector of the program; a score without a program is I0
(R101, R120). -/
def ProgBlock.takes (b : ProgBlock) (n : Nat) : Bool :=
  (b.ninstr == 0 && n == 0) || b.instrs.any (fun w =>
    let v := VInstr.ofNat w
    v.sa == 0x20 + n || v.sb == 0x20 + n || v.sc == 0x20 + n)

/-- The delivered inputs of element (i, j) and the OR of the flags that delivery to a selector raises. Log entry
39: DEDUCED. -/
def vInputs (rd : Reader) (x : VCtx) (i j : Nat) : List Nat × FlagWord :=
  let ds := (List.zip x.cmd.ins x.ins).map (fun (s, t) =>
    let (a, b) := s.elem i j
    deliver x.blk.w16 ((inPlane s t x.cmd.rows x.cmd.cols).val rd a b))
  (ds.map (·.1), (ds.mapIdx (fun n d => if x.blk.takes n then d.2 else 0)).foldl (fun f d => f ||| d) 0)

/-- The registers after the program has run on element (i, j), with every flag raised. -/
def vElement (rd : Reader) (lut : Nat → Nat → Nat) (x : VCtx) (i j : Nat) : List Nat × FlagWord :=
  let (ins, fi) := vInputs rd x i j
  let row := (x.cmd.roff.toNat + i) % 2 ^ 32
  let col := (x.cmd.coff.toNat + j) % 2 ^ 32
  let env : LaneEnv := ⟨x.blk.consts, ins, row, col, (drawRnd x.rnd row col).toNat⟩
  laneRun x.blk.w16 lut env x.blk.instrs (laneZero, fi)

/-- Rounding of output `o` at (i, j) (R102). -/
def vOutRnd (x : VCtx) (o : Nat) (s : OutSlot) (i j : Nat) : Rnd :=
  if s.rmode then
    .sr (drawElem x.orn (o == 1) ((x.cmd.roff.toNat + i) % 2 ^ 32) ((x.cmd.coff.toNat + j) % 2 ^ 32))
  else .rne

/-- Writes of an output: per row, packed codes (R102, R141). -/
def outWrites (s : OutSlot) (f : Fmt) (cols : Nat) (codes : List (List Nat)) :
    List (Nat × List Byte) :=
  (List.range codes.length).map (fun i =>
    (s.addr.toNat + i * pitch f cols, packCodes f (codes.getD i [])))

/-- ELEM form: outputs from the named registers after the last instruction (R86, R102). -/
def vElemEff (rd : Reader) (lut : Nat → Nat → Nat) (x : VCtx) : CoreEff :=
  let cells : List (List (Nat × Nat × FlagWord)) :=
    (List.range x.cmd.rows).map (fun i => (List.range x.cmd.cols).map (fun j =>
    let (xs, f) := vElement rd lut x i j
    let o := fun (n reg : Nat) (s : OutSlot) (t : Tf) =>
      store t.fmt (vOutRnd x n s i j) s.omode
        (decodeElem (laneFmt x.blk.w16) (xs.getD reg 0))
    let r0 := o 0 x.blk.osrc0 x.cmd.o0 (x.outs.getD 0 ⟨.fp32, .none, 32⟩)
    let r1 := if x.outs.length = 2 then o 1 x.blk.osrc1 x.cmd.o1 (x.outs.getD 1 ⟨.fp32, .none, 32⟩)
      else (0, 0)
    (r0.1, r1.1, f ||| r0.2 ||| r1.2)))
  let w : Nat → OutSlot → (Nat × Nat × FlagWord → Nat) → List (Nat × List Byte) := fun n s sel =>
    match x.outs[n]? with
    | some t => outWrites s t.fmt x.cmd.cols (cells.map (fun r => r.map sel))
    | none => []
  let row := fun (f : FlagWord) (r : List (Nat × Nat × FlagWord)) =>
    r.foldl (fun g t => g ||| t.2.2) f
  ⟨w 0 x.cmd.o0 (fun t => t.1) ++ w 1 x.cmd.o1 (fun t => t.2.1), cells.foldl row 0, 0⟩

/-! ### Softmax (R120 to R122) -/

/-- Whether element (i, j) is masked (R120). -/
def vMasked (rd : Reader) (c : VprogCmd) (i j : Nat) : Bool :=
  match c.msrc.toNat with
  | 1 =>
    let e := i * c.cols + j
    bitAt (rd (c.maddr.toNat + e / 8)).toNat (e % 8)
  | 2 =>
    decide (((c.coff.toNat + j : Nat) : Int) > ((c.roff.toNat + i : Nat) : Int) + c.moff.toInt)
  | _ => false

/-- The score of an element, widened to FP32 (R120, R122), with the flags its forming raised. -/
def vScore (rd : Reader) (lut : Nat → Nat → Nat) (x : VCtx) (i j : Nat) : Val × FlagWord :=
  if x.blk.ninstr = 0 then
    let (ins, f) := vInputs rd x i j
    (decodeElem (laneFmt x.blk.w16) (ins.getD 0 0), f)
  else
    let (xs, f) := vElement rd lut x i j
    (decodeElem (laneFmt x.blk.w16) (xs.getD x.blk.osrc0 0), f)

/-- One softmax row: the value to store at each position with its denominator (value = n ÷ d exactly,
or a NaN), the row's own flags, and whether it counts as fully masked (R121, R122). -/
def softRow (us : List (Option Val)) : List (Val × Val) × FlagWord × Nat :=
  let one : Val := .fin false 1 0
  let zero : Val := .fin false 0 0
  let present := us.filterMap id
  let all := fun (v : Val) => us.map (fun _ => (v, one))
  if present.isEmpty then (all zero, flagFM, 1)
  else if present.any (· == .nan) then (all .nan, 0, 0)
  else
    let p := (present.filter (· == .inf false)).length
    if 0 < p then
      (us.map (fun u => if u == some (.inf false) then (one, .fin false p 0) else (zero, one)), 0, 0)
    else if present.all (· == .inf true) then (all zero, flagFM, 1)
    else
      let m := present.foldl (fun a b => a.maxV b) (.inf true)
      let es : List (Option Val) := us.map (fun u => u.map (fun v =>
        f32 (special 0x10 (round32 (v.sub m)).1 0).1))
      let s := match lineFold nodeAdd (es.map (fun e => e.map (fun v => (v, (0 : FlagWord))))) with
        | some n => n.1
        | none => one
      (es.map (fun e => match e with
        | some v => (v, s)
        | none => (zero, one)), 0, 0)

/-- Stores an exact quotient of two finite values, the divisor positive, or a NaN (R45). -/
def storeQuot (f : Fmt) (rm : Rnd) (infMode : Bool) (n d : Val) : Nat × FlagWord :=
  match n, d with
  | .fin s m e, .fin _ dm de => storeFin f rm infMode s m dm (e - de)
  | v, _ => store f rm infMode v

/-- SOFTMAX form (R120 to R122). -/
def vSoftEff (rd : Reader) (lut : Nat → Nat → Nat) (x : VCtx) : CoreEff :=
  let f := (x.outs.getD 0 ⟨.fp32, .none, 32⟩).fmt
  let rows : List (List Nat × FlagWord × Nat) := (List.range x.cmd.rows).map (fun i =>
    let sc := (List.range x.cmd.cols).map (fun j =>
      if vMasked rd x.cmd i j then ((none : Option Val), (0 : FlagWord))
      else
        let (v, fl) := vScore rd lut x i j
        (some v, fl))
    let (qs, fl, fm) := softRow (sc.map (·.1))
    let cs := (List.range qs.length).map (fun j =>
      let q := qs.getD j (.nan, .nan)
      storeQuot f (vOutRnd x 0 x.cmd.o0 i j) x.cmd.o0.omode q.1 q.2)
    (cs.map (·.1),
     sc.foldl (fun g t => g ||| t.2) (cs.foldl (fun g t => g ||| t.2) fl), fm))
  ⟨outWrites x.cmd.o0 f x.cmd.cols (rows.map (·.1)), rows.foldl (fun g r => g ||| r.2.1) 0,
   rows.foldl (fun n r => n + r.2.2) 0⟩

/-- VPROG (R86). -/
def vprogEff (rd : Reader) (lut : Nat → Nat → Nat) (x : VCtx) : CoreEff :=
  if x.blk.form = 1 then vSoftEff rd lut x else vElemEff rd lut x

/-- VPROG's occupancy (R106, R123). -/
def vprogOcc (c : VprogCmd) (b : ProgBlock) : Nat :=
  if b.form = 1 then (3 * b.ninstr + 6) * 8 * ceilDiv (c.rows * 256 * ceilDiv c.cols 256) 2048
  else b.ninstr * 8 * ceilDiv (c.rows * c.cols) (if b.w16 then 4096 else 2048)

end Sys2Proof.Machine
end

