-- ==== Sys2Proof/Machine/Quant.lean ====
section
/-! DEFINITION. The quantise path (R130 to R136, R278 to R280, R543): QNT with its rotation, scales, statistics and
scale-estimate record, and DQT. -/
namespace Sys2Proof.Machine

/-- The flags and value of one rounded FP32 operation (R94, R111). -/
abbrev FV := Val × FlagWord

/-- One butterfly stage of R131 at distance h over a block. -/
def butterfly (h : Nat) (v : List FV) : List FV :=
  (List.range v.length).map (fun i =>
    let lo := if i / h % 2 = 0 then i else i - h
    let a := v.getD lo (.nan, 0)
    let b := v.getD (lo + h) (.nan, 0)
    let (c, f) := round32 (if i = lo then a.1.add b.1 else a.1.sub b.1)
    (f32 c, a.2 ||| b.2 ||| f))

/-- `k` stages from distance h. -/
def butterflies : Nat → Nat → List FV → List FV
  | 0, _, v => v
  | k + 1, h, v => butterflies k (2 * h) (butterfly h v)

/-- The factor's exponent (R131): L = 2^−⌊k÷2⌋ for RSIDE 0, U = 2^−⌈k÷2⌉ for RSIDE 1. -/
def rotExp (k : Nat) (rside : Bool) : Int := -((if rside then (k + 1) / 2 else k / 2 : Nat) : Int)

/-- Rotates one block of 2^k values (R131). -/
def rotBlock (k : Nat) (rside : Bool) (v : List FV) : List FV :=
  (butterflies k 1 v).map (fun x =>
    let (c, f) := round32 (x.1.mul (.fin false 1 (rotExp k rside)))
    (f32 c, x.2 ||| f))

/-- Rotates consecutive blocks of a row; `fuel` bounds the blocks. -/
def rotRow (k : Nat) (rside : Bool) : Nat → List FV → List FV
  | 0, v => v
  | fuel + 1, v =>
    if v.isEmpty then []
    else rotBlock k rside (v.take (2 ^ k)) ++ rotRow k rside fuel (v.drop (2 ^ k))

/-- k of ROT (R131): 5, 6 or 7; 0 for no rotation. -/
def rotK (rot : BitVec 2) : Nat := if rot = 0 then 0 else rot.toNat + 4

/-- Larger of two finite magnitudes given as (n, e). -/
def magMax (a b : Nat × Int) : Nat × Int := if magLe a.1 a.2 b.1 b.2 then b else a

/-- The largest finite magnitude among values, (0, 0) if none. -/
def amaxOf (vs : List Val) : Nat × Int :=
  vs.foldl (fun a v => match v with
    | .fin _ m e => magMax a (m, e)
    | _ => a) (0, 0)

/-- Whether every value is a zero. -/
def allZero (vs : List Val) : Bool := vs.all Val.isZero

/-- A converted group: element codes, the scale code written, flags, elements clamped, elements
zeroed, and whether it is a NaN group. -/
structure Grp where
  codes : List Nat
  scale : Nat
  flags : FlagWord
  sat : Nat
  uz : Nat
  nan : Bool
  deriving DecidableEq, Repr

/-- Whether a stored element counts as clamped (R134). Log entry 34: DEDUCED. -/
def isSat (f : FlagWord) : Bool := f &&& flagSAT != 0
/-- Whether a stored element counts as zeroed (R134), one of stochastic rounding too. Log entry 117: DESIGN CHOICE. -/
def isUz (f : FlagWord) : Bool := f &&& flagUZ != 0

/-- A group of stored elements gathered. -/
def grpOf (scale : Nat) (rs : List (Nat × FlagWord)) : Grp :=
  ⟨rs.map (·.1), scale, rs.foldl (fun f r => f ||| r.2) 0,
   (rs.filter (fun r => isSat r.2)).length, (rs.filter (fun r => isUz r.2)).length, false⟩

/-- A NaN group (R52, R543). -/
def nanGrp (k : SKind) (n : Nat) : Grp := ⟨List.replicate n 0, nanScale k, flagNV, 0, 0, true⟩

/-- An element under the zero scale (R543). -/
def zeroScaled (f : Fmt) : Val → Nat × FlagWord
  | .fin s m _ => (withSign f s 0, if m = 0 then 0 else flagUZ)
  | v => store f .rne false v

/-- Converts a scaled group under scale code `code` (R45, R52, R543). -/
def convGroup (t : Tf) (texp : Byte) (infMode : Bool) (rnd : Nat → Rnd) (code : Nat)
    (vs : List Val) : Grp :=
  if vs.any (· == .nan) then nanGrp t.sk vs.length
  else match decodeScale t.sk texp code with
    | .nan => nanGrp t.sk vs.length
    | .zero => grpOf code (vs.map (zeroScaled t.fmt))
    | .pos m e => grpOf code ((List.range vs.length).map (fun i =>
        storeScaled t.fmt (rnd i) infMode m e (vs.getD i .nan)))

/-- Converts the elements of an unscaled row (R45). -/
def convPlain (f : Fmt) (infMode : Bool) (rnd : Nat → Rnd) (vs : List Val) : List (Nat × FlagWord) :=
  (List.range vs.length).map (fun i => store f (rnd i) infMode (vs.getD i .nan))

/-! ### The scale-estimate record (R278 to R280) -/

/-- The fields of the record a QNT reads. -/
structure EstHdr where
  nest : Nat
  hr : Nat
  floor : Val
  deriving DecidableEq, Repr

/-- Reads the header (R278, R279: a FLOOR that is not finite and positive reads as 2^−126). -/
def readEst (rd : Reader) (a : Nat) : EstHdr :=
  let fl := f32 (leNat rd (a + 4) 4)
  let ok := match fl with
    | .fin s m _ => !s && m != 0
    | _ => false
  ⟨leNat rd a 2, (rd (a + 2)).toNat % 8, if ok then fl else .fin false 1 (-126)⟩

/-- The target T of a column (R279): e not finite, or not above FLOOR, is replaced by FLOOR. -/
def estTarget (h : EstHdr) (est : Nat) : Val :=
  let e := f32 est
  let e' := if e.nonfinite || !(h.floor.lt e) then h.floor else e
  rn32 (e'.mul (.fin false 1 h.hr))

/-- The scale code of a target (R279); an overflowed target has no finite scale and takes the
largest. -/
def estScale (t : Tf) (texp : Byte) (v : Val) : Nat :=
  match v with
  | .fin _ m e => targetScale t.fmt t.sk texp m e
  | _ => if t.sk = .e8m0 then 254 else 0x7E

/-- What a row's conversion yields: element codes with padding, scale codes, flags, and per group
the SAT count, the clamp count of R280, zero count, NaN mark and largest finite input. -/
structure RowOut where
  codes : List Nat
  scales : List Nat
  flags : FlagWord
  sat : List Nat
  clamp : List Nat
  uz : Nat
  nans : Nat
  amax : List (Nat × Int)
  deriving DecidableEq, Repr

/-- What is common to the rows of a QNT. -/
structure QCtx where
  cmd : QntCmd
  sf : Fmt
  dt : Tf
  key : DrawKey
  deriving DecidableEq, Repr

/-- The rounding of element (i, j) (R54). -/
def qRnd (x : QCtx) (i j : Nat) : Rnd :=
  if x.cmd.rmode then
    .sr (drawElem x.key false ((x.cmd.roff.toNat + i) % 2 ^ 32) ((x.cmd.coff.toNat + j) % 2 ^ 32))
  else .rne

/-- The row's values after decoding and rotation, with rotation flags (R130 steps 1 and 2). Log entry 34: DEDUCED. -/
def qRow (rd : Reader) (x : QCtx) (i : Nat) : List FV :=
  let vs := (List.range x.cmd.cols).map (fun j => ((qntSrc x.cmd x.sf).val rd i j, (0 : FlagWord)))
  if x.cmd.rot = 0 then vs else rotRow (rotK x.cmd.rot) x.cmd.rside vs.length vs

/-- Splits a list into runs of `n`; `fuel` bounds the runs. -/
def runs {α : Type} (n : Nat) : Nat → List α → List (List α)
  | 0, _ => []
  | fuel + 1, xs => if xs.isEmpty then [] else xs.take n :: runs n fuel (xs.drop n)

/-- The scale code of group `g` of row `i` (R133). -/
def qScale (rd : Reader) (x : QCtx) (i g : Nat) (vs : List Val) : Nat :=
  let ng := groupsOf x.dt x.cmd.cols
  match x.cmd.ssrc.toNat with
  | 1 =>
    let h := readEst rd x.cmd.seaddr.toNat
    let c := if h.nest = 1 then 0 else g
    estScale x.dt x.cmd.dtexp (estTarget h (leNat rd (x.cmd.seaddr.toNat + 16 + 16 * c) 4))
  | 2 => (rd (x.cmd.seaddr.toNat + i * ng + g)).toNat
  | _ =>
    let a := amaxOf vs
    groupScale x.dt.fmt x.dt.sk x.cmd.dtexp a.1 a.2 (allZero vs)

/-- Elements of a group that R280 counts as clamped: those with SAT, and every infinite input. -/
def clampCount (f : Fmt) (o : Grp) (vs : List Val) : Nat :=
  if o.nan then 0
  else o.sat + (if f.hasInf then (vs.filter (fun v => v == .inf true || v == .inf false)).length else 0)

/-- Converts one row (R130). -/
def qRowOut (rd : Reader) (x : QCtx) (i : Nat) : RowOut :=
  let row := qRow rd x i
  let vs := row.map (·.1)
  let fl := row.foldl (fun f r => f ||| r.2) 0
  if x.dt.sk = .none then
    let rs := convPlain x.dt.fmt x.cmd.omode (qRnd x i) vs
    ⟨rs.map (·.1), [], rs.foldl (fun f r => f ||| r.2) fl, [(rs.filter (fun r => isSat r.2)).length], [],
     (rs.filter (fun r => isUz r.2)).length, (vs.filter (· == .nan)).length, [amaxOf vs]⟩
  else
    let gs := runs x.dt.gsize vs.length vs
    let os := (List.range gs.length).map (fun g =>
      let vg := gs.getD g []
      convGroup x.dt x.cmd.dtexp x.cmd.omode (fun j => qRnd x i (g * x.dt.gsize + j))
        (qScale rd x i g vg) vg)
    ⟨os.flatMap (·.codes) ++ List.replicate (padCodes x.dt x.cmd.cols) 0, os.map (·.scale),
     os.foldl (fun f o => f ||| o.flags) fl, os.map (·.sat),
     List.zipWith (clampCount x.dt.fmt) os gs, os.foldl (fun n o => n + o.uz) 0,
     (os.filter (·.nan)).length, gs.map amaxOf⟩

/-- The FP32 code of a finite magnitude that an FP32 value holds. -/
def magCode32 (a : Nat × Int) : Nat := (store .fp32 .rne true (.fin false a.1 a.2)).1

/-- Saturating 32-bit count as four bytes. -/
def cnt4 (n : Nat) : List Byte := leBytes 4 (min n 0xFFFFFFFF)

/-- The statistics record (R134). Log entry 117: DESIGN CHOICE. -/
def statRecord (rows : List RowOut) : List Byte :=
  leBytes 4 (magCode32 ((rows.flatMap (·.amax)).foldl magMax (0, 0)))
    ++ cnt4 (rows.foldl (fun n r => n + r.sat.sum) 0)
    ++ cnt4 (rows.foldl (fun n r => n + r.uz) 0)
    ++ cnt4 (rows.foldl (fun n r => n + r.nans) 0)

/-- The columns of the scale-estimate record after the command (R280). -/
def estWrites (rd : Reader) (x : QCtx) (rows : List RowOut) : List (Nat × List Byte) :=
  let a := x.cmd.seaddr.toNat
  let h := readEst rd a
  let sats := rows.map (·.clamp)
  let tot := sats.foldl (fun n s => n + s.sum) 0
  (a + 8, cnt4 (leNat rd (a + 8) 4 + tot)) ::
    (List.range h.nest).flatMap (fun c =>
      let pick := fun {β : Type} (xs : List β) => if h.nest = 1 then xs else (xs.drop c).take 1
      let obs := (rows.flatMap (fun r => pick r.amax)).foldl magMax (0, 0)
      let sat := sats.foldl (fun n s => n + (pick s).sum) 0
      let old := f32 (leNat rd (a + 20 + 16 * c) 4)
      let new := (store .fp32 .rne true (old.maxV (.fin false obs.1 obs.2))).1
      [(a + 20 + 16 * c, leBytes 4 new), (a + 24 + 16 * c, cnt4 (leNat rd (a + 24 + 16 * c) 4 + sat))])

/-- QNT (R130). -/
def qntEff (rd : Reader) (x : QCtx) : CoreEff :=
  let rows := (List.range x.cmd.rows).map (qRowOut rd x)
  let ng := groupsOf x.dt x.cmd.cols
  let el := (List.range rows.length).flatMap (fun i =>
    let r := rows.getD i ⟨[], [], 0, [], [], 0, 0, []⟩
    (x.cmd.daddr.toNat + i * pitch x.dt.fmt x.cmd.cols, packCodes x.dt.fmt r.codes) ::
      (if x.dt.sk = .none then []
       else [(x.cmd.dsaddr.toNat + i * ng, r.scales.map (BitVec.ofNat 8))]))
  let st := if x.cmd.stat then [(x.cmd.staddr.toNat, statRecord rows)] else []
  let es := if x.dt.sk != .none && x.cmd.ssrc == 1 then estWrites rd x rows else []
  ⟨el ++ st ++ es, rows.foldl (fun f r => f ||| r.flags) 0, 0⟩

/-- What is common to the rows of a DQT. -/
structure DCtx where
  cmd : DqtCmd
  st : Tf
  df : Fmt
  key : DrawKey
  deriving DecidableEq, Repr

/-- The rounding of element (i, j). -/
def dRnd (x : DCtx) (i j : Nat) : Rnd :=
  if x.cmd.rmode then
    .sr (drawElem x.key false ((x.cmd.roff.toNat + i) % 2 ^ 32) ((x.cmd.coff.toNat + j) % 2 ^ 32))
  else .rne

/-- The row's values before conversion (R136): exact, or rounded to FP32 and rotated. -/
def dRow (rd : Reader) (x : DCtx) (i : Nat) : List FV :=
  let vs := (List.range x.cmd.cols).map (fun j => (dqtSrc x.cmd x.st).val rd i j)
  if x.cmd.rot = 0 then vs.map (fun v => (v, 0))
  else rotRow (rotK x.cmd.rot) x.cmd.rside vs.length (vs.map (fun v =>
    let (c, f) := round32 v
    (f32 c, f)))

/-- DQT (R136). -/
def dqtEff (rd : Reader) (x : DCtx) : CoreEff :=
  let rows := (List.range x.cmd.rows).map (fun i =>
    let row := dRow rd x i
    let rs := convPlain x.df x.cmd.omode (dRnd x i) (row.map (·.1))
    (rs.map (·.1), (row.foldl (fun f r => f ||| r.2) 0) ||| rs.foldl (fun f r => f ||| r.2) 0))
  ⟨(List.range rows.length).map (fun i =>
      (x.cmd.daddr.toNat + i * pitch x.df x.cmd.cols, packCodes x.df (rows.getD i ([], 0)).1)),
   rows.foldl (fun f r => f ||| r.2) 0, 0⟩

/-- Occupancies (R135). -/
def qntOcc (c : QntCmd) : Nat := ceilDiv (c.rows * c.cols) 256 * (2 + rotK c.rot)
/-- DQT's occupancy (R135). -/
def dqtOcc (c : DqtCmd) : Nat := ceilDiv (c.rows * c.cols) 256 * (1 + rotK c.rot)

end Sys2Proof.Machine
end

