-- ==== Sys2Proof/Machine/Reduce.lean ====
section
/-! DEFINITION. What VRED computes (R124 to R128). -/
namespace Sys2Proof.Machine

/-- The node of an OP (R124). -/
def redNode (op : Nat) : Val → Val → Val × FlagWord :=
  match op with
  | 0 => nodeAdd
  | 1 => nodeMax
  | 2 => nodeMin
  | 3 => nodeMax
  | 4 => nodeAdd
  | _ => fun a b => (a.maxV b, 0)

/-- The leaf of an OP for a delivered FP32 value with its delivery flags (R124, R128). -/
def redLeaf (op : Nat) (v : Val) (f : FlagWord) : Val × FlagWord :=
  match op with
  | 3 => (v.abs, if v == .nan then f ||| flagNV else f)
  | 4 =>
    let (c, g) := round32 (v.mul v)
    (f32 c, f ||| g)
  | 5 => (if v.nonfinite then .fin false 1 0 else .fin false 0 0, 0)
  | _ => (v, f)

/-- The leaf for a decoded value: delivered rounded once to FP32 (R101, R128). NFIN tests the
delivered value. -/
def redIn (op : Nat) (v : Val) : Val × FlagWord :=
  let (c, f) := round32 v
  redLeaf op (f32 c) f

/-- One folded line as its result value and flags. -/
def redLine (op : Nat) (vs : List Val) : Val × FlagWord :=
  match lineFold (redNode op) (vs.map (fun v => some (redIn op v))) with
  | some n => n
  | none => (.nan, 0)

/-- Code and flags of each value VRED writes (R127): NFIN raises no flag at all (R128). -/
def vredVals (rd : Reader) (c : VredCmd) (t : Tf) (df : Fmt) : List (Nat × FlagWord) :=
  let op := c.op.toNat
  (List.range (vredOut c)).map (fun x =>
    let vs := if c.axis then (List.range c.rows).map (fun i => (vredSrc c t).val rd i x)
      else (List.range c.cols).map (fun j => (vredSrc c t).val rd x j)
    let (v, f) := redLine op vs
    let (code, g) := store df .rne true v
    (code, if op = 5 then 0 else f ||| g))

/-- VRED (R124). -/
def vredEff (rd : Reader) (c : VredCmd) (t : Tf) (df : Fmt) : CoreEff :=
  let vs := vredVals rd c t df
  ⟨[(c.daddr.toNat, packCodes df (vs.map (·.1)))], vs.foldl (fun f r => f ||| r.2) 0, 0⟩

/-- VRED's occupancy (R129). -/
def vredOcc (c : VredCmd) : Nat :=
  if c.axis then c.cols * ceilDiv c.rows 256 else c.rows * ceilDiv c.cols 256

end Sys2Proof.Machine
end

