-- ==== Sys2Proof/Machine/Memory.lean ====
section
/-! DEFINITION. Memory as plain data: a list of (address, byte) pairs, addresses strictly rising and no byte zero; an
unlisted address reads as zero (log entry 5). Scratchpads and accumulators are zero after reset
(R403, R468), and so is what RELEASE clears (R222). -/
namespace Sys2Proof.Machine

/-- A memory. -/
abbrev Mem := List Host.Cell

namespace Mem

/-- The byte at an address. -/
def get (m : Mem) (a : Nat) : Byte :=
  match m with
  | [] => 0
  | (b, v) :: r => if b = a then v else get r a

/-- Stores one byte, keeping the canonical form. -/
def set (m : Mem) (a : Nat) (v : Byte) : Mem :=
  match m with
  | [] => if v = 0 then [] else [(a, v)]
  | (b, w) :: r =>
    if b < a then (b, w) :: set r a v
    else if b = a then (if v = 0 then r else (a, v) :: r)
    else if v = 0 then (b, w) :: r else (a, v) :: (b, w) :: r

/-- Stores consecutive bytes from `a`. -/
def setBytes (m : Mem) (a : Nat) : List Byte → Mem
  | [] => m
  | b :: bs => setBytes (m.set a b) (a + 1) bs

/-- The cells from address `a` on. -/
def dropTo (a : Nat) : Mem → Mem
  | [] => []
  | (b, w) :: r => if b < a then dropTo a r else (b, w) :: r

/-- `n` bytes from `a` of a memory whose cells all lie at or above `a`. -/
def readFrom : Nat → Nat → Mem → List Byte
  | 0, _, _ => []
  | n + 1, a, [] => 0 :: readFrom n (a + 1) []
  | n + 1, a, (b, w) :: r =>
    if b = a then w :: readFrom n (a + 1) r else 0 :: readFrom n (a + 1) ((b, w) :: r)

/-- `n` bytes from `a`. -/
def read (m : Mem) (a n : Nat) : List Byte := readFrom n a (m.dropTo a)

/-- The canonical form: addresses strictly rising, no zero byte. -/
def wf : Mem → Bool
  | [] => true
  | [(_, v)] => v != 0
  | (a, v) :: (b, w) :: r => v != 0 && decide (a < b) && wf ((b, w) :: r)

/-- Removes every cell from `lo` up to but not including `hi`. -/
def clear (m : Mem) (lo hi : Nat) : Mem := m.filter (fun c => c.1 < lo || hi ≤ c.1)

end Mem

end Sys2Proof.Machine
end

