-- ==== Sys2Proof/Machine/Digest.lean ====
section
/-! DEFINITION. Digests: PD61 (R360, R361) and the SHA-384 and SHA-256 that the spec names by their standard (R473, R491; log entry 4). -/
namespace Sys2Proof.Machine

/-- The modulus of PD61. -/
def p61 : Nat := 2 ^ 61 - 1

/-- One half-word step of R360. -/
def pdStep (k h half : Nat) : Nat := (h + half + 1) * k % p61

/-- PD61 over a list of 32-bit halves, low half of each word first. -/
def pdHalves (k : Nat) (h : Nat) : List Nat → Nat
  | [] => h
  | x :: xs => pdHalves k (pdStep k h x) xs

/-- Splits bytes into 32-bit halves of whole 64-bit words, zero-padded (R159). -/
def toHalves : List Byte → List Nat
  | b0 :: b1 :: b2 :: b3 :: b4 :: b5 :: b6 :: b7 :: r =>
    leVal [b0, b1, b2, b3] :: leVal [b4, b5, b6, b7] :: toHalves r
  | [] => []
  | r => [leVal (r.take 4), leVal (r.drop 4)]

/-- PD61 of a byte sequence at key point `k` (R360). -/
def pd61 (k : Nat) (bs : List Byte) : Nat := pdHalves k 0 (toHalves bs)

/-- `k ^ n` modulo 2^61 − 1 by squaring; `fuel` bounds the bits of `n`. -/
def powMod (k : Nat) : Nat → Nat → Nat
  | 0, _ => 1 % p61
  | fuel + 1, n =>
    if n = 0 then 1 % p61
    else
      let h := powMod (k * k % p61) fuel (n / 2)
      if n % 2 = 1 then h * k % p61 else h

/-- Merges the digest of a part with that of a later part of `m` words (R361). -/
def pdMerge (k d1 d2 m : Nat) : Nat := (d1 * powMod k 64 (2 * m) + d2) % p61

/-- A digest as the 64-bit field that carries it. -/
def digWord (d : Nat) : DWord := BitVec.ofNat 64 d

/-! ### SHA-384 and SHA-256 -/

/-- The first `n` primes at and above `c`. -/
def primesFrom : Nat → Nat → Nat → List Nat
  | 0, _, _ => []
  | fuel + 1, n, c =>
    if n = 0 then []
    else if (List.range c).all (fun d => d < 2 || c % d != 0) then c :: primesFrom fuel (n - 1) (c + 1)
    else primesFrom fuel n (c + 1)

/-- Largest r with r^e ≤ n, by bits from 2^b down. -/
def iroot (e n : Nat) : Nat → Nat → Nat
  | 0, r => if (r + 1) ^ e ≤ n then r + 1 else r
  | b + 1, r => iroot e n b (if (r + 2 ^ (b + 1)) ^ e ≤ n then r + 2 ^ (b + 1) else r)

/-- The first `w` bits of the fraction of the e-th root of p. -/
def rootFrac (w e p : Nat) : BitVec w := BitVec.ofNat w (iroot e (p * 2 ^ (w * e)) (w + 4) 0)

/-- One of the two hash families by its word width: the round constants, and the distances of its four sums, the last
of the two schedule sums a shift. Log entry 4: PRESUMED. -/
structure Sha (w : Nat) where
  k : List (BitVec w)
  big1 : Nat × Nat × Nat
  big0 : Nat × Nat × Nat
  sml0 : Nat × Nat × Nat
  sml1 : Nat × Nat × Nat

/-- The family of SHA-384: its eighty round constants are cube-root fractions of the first primes. Log entry 4:
PRESUMED. -/
def sha512 : Sha 64 := ⟨(primesFrom 410 80 2).map (rootFrac 64 3), (14, 18, 41), (28, 34, 39), (1, 8, 7), (19, 61, 6)⟩

/-- SHA-256, with sixty-four round constants. Log entry 4: PRESUMED. -/
def sha2Small : Sha 32 := ⟨(primesFrom 320 64 2).map (rootFrac 32 3), (6, 11, 25), (2, 13, 22), (7, 18, 3), (17, 19, 10)⟩

/-- The eight starting words of SHA-384: square-root fractions of the ninth to sixteenth primes. Log entry 4: PRESUMED. -/
def sha384H : List DWord := ((primesFrom 60 16 2).drop 8).map (rootFrac 64 2)

/-- The eight starting words of SHA-256: square-root fractions of the first eight primes. Log entry 4: PRESUMED. -/
def sha256H : List Word := (primesFrom 30 8 2).map (rootFrac 32 2)

/-- Rotation to the right. -/
def rotr {w : Nat} (x : BitVec w) (n : Nat) : BitVec w := (x >>> n) ||| (x <<< (w - n))

/-- Three rotations added without carry. -/
def rot3 {w : Nat} (r : Nat × Nat × Nat) (x : BitVec w) : BitVec w := rotr x r.1 ^^^ rotr x r.2.1 ^^^ rotr x r.2.2

/-- Two rotations and a shift added without carry. -/
def rot2 {w : Nat} (r : Nat × Nat × Nat) (x : BitVec w) : BitVec w := rotr x r.1 ^^^ rotr x r.2.1 ^^^ (x >>> r.2.2)

/-- The message schedule, newest word first, extended by `n` words. -/
def shaExtend {w : Nat} (p : Sha w) : Nat → List (BitVec w) → List (BitVec w)
  | 0, ws => ws
  | n + 1, ws =>
    let g := fun i => ws.getD i 0
    shaExtend p n ((g 15 + rot2 p.sml0 (g 14) + g 6 + rot2 p.sml1 (g 1)) :: ws)

/-- The working variables of a compression. -/
structure ShaSt (w : Nat) where
  a : BitVec w
  b : BitVec w
  c : BitVec w
  d : BitVec w
  e : BitVec w
  f : BitVec w
  g : BitVec w
  h : BitVec w

/-- One round. -/
def shaRound {w : Nat} (p : Sha w) (s : ShaSt w) (kw : BitVec w) : ShaSt w :=
  let ch := (s.e &&& s.f) ^^^ (~~~s.e &&& s.g)
  let t1 := s.h + rot3 p.big1 s.e + ch + kw
  let mj := (s.a &&& s.b) ^^^ (s.a &&& s.c) ^^^ (s.b &&& s.c)
  ⟨t1 + (rot3 p.big0 s.a + mj), s.a, s.b, s.c, s.d + t1, s.e, s.f, s.g⟩

/-- The number a big-endian byte list spells. -/
def beVal (bs : List Byte) : Nat := bs.foldl (fun acc b => acc * 256 + b.toNat) 0

/-- `n` bytes of a number, big-endian. -/
def beBytes (n v : Nat) : List Byte := (leBytes n v).reverse

/-- Big-endian words of a block. -/
def beWords (w : Nat) : Nat → List Byte → List (BitVec w)
  | 0, _ => []
  | n + 1, bs => BitVec.ofNat w (beVal (bs.take (w / 8))) :: beWords w n (bs.drop (w / 8))

/-- One block of sixteen words folded into the chain value. -/
def shaBlock {w : Nat} (p : Sha w) (h : List (BitVec w)) (blk : List Byte) : List (BitVec w) :=
  let ws := (shaExtend p (p.k.length - 16) (beWords w 16 blk).reverse).reverse
  let g := fun i => h.getD i 0
  let s := (List.zipWith (· + ·) p.k ws).foldl (shaRound p)
    ⟨g 0, g 1, g 2, g 3, g 4, g 5, g 6, g 7⟩
  List.zipWith (· + ·) h [s.a, s.b, s.c, s.d, s.e, s.f, s.g, s.h]

/-- Blocks in order. -/
def shaBlocks {w : Nat} (p : Sha w) : Nat → List (BitVec w) → List Byte → List (BitVec w)
  | 0, h, _ => h
  | n + 1, h, bs => shaBlocks p n (shaBlock p h (bs.take (2 * w))) (bs.drop (2 * w))

/-- A message padded to whole blocks and hashed from the starting words `h`; `n` words of the result. -/
def shaOf {w : Nat} (p : Sha w) (h : List (BitVec w)) (n : Nat) (bs : List Byte) : List Byte :=
  let z := (4 * w - (bs.length + w / 4 + 1) % (2 * w)) % (2 * w)
  let m := bs ++ [0x80] ++ List.replicate z 0 ++ beBytes (w / 4) (8 * bs.length)
  ((shaBlocks p (m.length / (2 * w)) h m).take n).flatMap (fun x => beBytes (w / 8) x.toNat)

/-- SHA-384 as a list of 48 bytes. Log entry 4: PRESUMED. -/
def sha384 (bs : List Byte) : List Byte := shaOf sha512 sha384H 6 bs

/-- SHA-256 as a list of 32 bytes. Log entry 4: PRESUMED. -/
def sha256 (bs : List Byte) : List Byte := shaOf sha2Small sha256H 8 bs

end Sys2Proof.Machine
end

