-- ==== Sys2Proof/Machine/Sign.lean ====
section
/-! DEFINITION. The signatures of Plinth, which the spec names by their standards: ECDSA on the curve P-384 with SHA-384
(R490, R493) and the two-level HSS key of RFC 8554 (R491, R493). Log entry 149: PRESUMED. -/
namespace Sys2Proof.Machine

/-! ### ECDSA P-384 -/

/-- The curve's prime. Log entry 149: PRESUMED. -/
def p384 : Nat := 2 ^ 384 - 2 ^ 128 - 2 ^ 96 + 2 ^ 32 - 1

/-- The order of its base point. Log entry 149: PRESUMED. -/
def n384 : Nat :=
  0xffffffffffffffffffffffffffffffffffffffffffffffffc7634d81f4372ddf581a0db248b0a77aecec196accc52973

/-- Its base point. Log entry 149: PRESUMED. -/
def base384 : Nat × Nat :=
  (0xaa87ca22be8b05378eb1c71ef320ad746e1d3b628ba79b9859f741e082542a385502f25dbf55296c3a545e3872760ab7,
   0x3617de4a96262c6f5d9e98bf9292dc29f8f41dbd289a147ce9da3113b5f0b8c00a60b1ce1d7e819d7a431d7c90ea0e5f)

/-- `b ^ n` modulo `m` by squaring; `fuel` bounds the bits of `n`. -/
def modPow (m : Nat) : Nat → Nat → Nat → Nat
  | 0, _, _ => 1
  | fuel + 1, b, n =>
    let h := modPow m fuel (b * b % m) (n / 2)
    if n % 2 = 1 then h * b % m else h

/-- The inverse modulo a prime of at most 384 bits. -/
def modInv (m a : Nat) : Nat := modPow m 384 (a % m) (m - 2)

/-- The sum of two points; none is the point at infinity. -/
def addPoint : Option (Nat × Nat) → Option (Nat × Nat) → Option (Nat × Nat)
  | none, q => q
  | p, none => p
  | some (x1, y1), some (x2, y2) =>
    let sum := fun (l : Nat) =>
      let x := (l * l + 2 * p384 - x1 - x2) % p384
      some (x, (l * (x1 + p384 - x) + p384 - y1) % p384)
    if x1 = x2 then
      if (y1 + y2) % p384 = 0 then none
      else sum ((3 * x1 * x1 + p384 - 3) * modInv p384 (2 * y1) % p384)
    else sum ((y2 + p384 - y1) * modInv p384 (x2 + p384 - x1) % p384)

/-- A multiple of a point; `fuel` bounds the bits of the scalar. -/
def mulPoint : Nat → Nat → Option (Nat × Nat) → Option (Nat × Nat)
  | 0, _, _ => none
  | fuel + 1, n, p =>
    let r := mulPoint fuel (n / 2) (addPoint p p)
    if n % 2 = 1 then addPoint r p else r

/-- The scalar that a number stands for: 1 to the order less one. -/
def scalar384 (k : Nat) : Nat := k % (n384 - 1) + 1

/-- The device identity key derived from the unique device secret: the private scalar in 48 bytes, and the public point as
a byte 0x04 and its coordinates (R490). Log entry 133: DESIGN CHOICE. -/
def identityKey (secret : List Byte) : List Byte × List Byte :=
  let d := scalar384 (Config.identityScalar secret)
  let q := (mulPoint 384 d (some base384)).getD (0, 0)
  (beBytes 48 d, 4 :: (beBytes 48 q.1 ++ beBytes 48 q.2))

/-- The ECDSA signature with SHA-384 of a message by the key of that private half: r then s, 48 bytes each (R493), with
the per-message scalar that `rand` gives. -/
def ecdsaSign (priv msg : List Byte) (rand : Nat) : List Byte :=
  let k := scalar384 rand
  let r := ((mulPoint 384 k (some base384)).getD (0, 0)).1 % n384
  let s := modInv n384 k * (beVal (sha384 msg) + r * beVal priv) % n384
  beBytes 48 r ++ beBytes 48 s

/-! ### HSS (RFC 8554) -/

/-- An LMS tree: its height, identifier and seed. -/
structure LmsTree where
  height : Nat
  ident : List Byte
  seed : List Byte

/-- The first `n` bytes, zeros after the last. -/
def fitBytes (n : Nat) (bs : List Byte) : List Byte := (bs ++ List.replicate n 0).take n

/-- The tree of the attestation key derived from the unique device secret: the top tree, of height 10, or the lower tree of
a top index, of height 15 (R491). Log entry 133: DESIGN CHOICE. -/
def lmsTree (secret : List Byte) (lower : Option Nat) : LmsTree :=
  let k := Config.lmsSeed secret lower
  ⟨if lower.isSome then 15 else 10, fitBytes 16 k.1, fitBytes 32 k.2⟩

/-- The typecode of LMS_SHA256_M32_H10 or LMS_SHA256_M32_H15. Log entry 149: PRESUMED. -/
def LmsTree.code (t : LmsTree) : Nat := if t.height = 15 then 7 else 6

/-- The typecode of LMOTS_SHA256_N32_W4. Log entry 149: PRESUMED. -/
def otsCode : Nat := 3

/-- The hash over the tree's identifier, a number, a 16-bit mark and more. -/
def LmsTree.hash (t : LmsTree) (q mark : Nat) (bs : List Byte) : List Byte := sha256 (t.ident ++ beBytes 4 q ++ beBytes 2 mark ++ bs)

/-- Chain `i` of leaf `q` from step `a` on, `n` steps. -/
def LmsTree.chain (t : LmsTree) (q i : Nat) : Nat → Nat → List Byte → List Byte
  | 0, _, x => x
  | n + 1, a, x => t.chain q i n (a + 1) (t.hash q i (beBytes 1 a ++ x))

/-- The private start of chain `i` of leaf `q`, from the seed. -/
def LmsTree.secretOf (t : LmsTree) (q i : Nat) : List Byte := t.hash q i (0xFF :: t.seed)

/-- The one-time public key of leaf `q`: its 67 chains at their ends. -/
def LmsTree.otsKey (t : LmsTree) (q : Nat) : List Byte :=
  t.hash q 0x8080 ((List.range 67).flatMap (fun i => t.chain q i 15 0 (t.secretOf q i)))

/-- Node `r` of the tree, `d` levels above the leaves. -/
def LmsTree.node (t : LmsTree) : Nat → Nat → List Byte
  | 0, r => t.hash r 0x8282 (t.otsKey (r - 2 ^ t.height))
  | d + 1, r => t.hash r 0x8383 (t.node d (2 * r) ++ t.node d (2 * r + 1))

/-- The public key of the tree. -/
def LmsTree.key (t : LmsTree) : List Byte := beBytes 4 t.code ++ beBytes 4 otsCode ++ t.ident ++ t.node t.height 1

/-- The 67 digits of a hash: its 64 half-bytes, high first, and the three of its checksum. -/
def otsDigits (h : List Byte) : List Nat :=
  let ds := h.flatMap (fun b => [b.toNat / 16, b.toNat % 16])
  let c := ds.foldl (fun n d => n + (15 - d)) 0
  ds ++ [c / 256 % 16, c / 16 % 16, c % 16]

/-- The signature of a message by leaf `q` with the randomizer `c`. -/
def LmsTree.sign (t : LmsTree) (q : Nat) (c msg : List Byte) : List Byte :=
  let h := t.hash q 0x8181 (c ++ msg)
  let ys := (otsDigits h).mapIdx (fun i a => t.chain q i a 0 (t.secretOf q i))
  let path := (List.range t.height).flatMap (fun i => t.node i (((2 ^ t.height + q) / 2 ^ i) ^^^ 1))
  beBytes 4 q ++ beBytes 4 otsCode ++ c ++ ys.flatten ++ beBytes 4 t.code ++ path

/-- The public half of the attestation key: an HSS key of two levels over its top tree (R491). -/
def attestKey (secret : List Byte) : List Byte := beBytes 4 2 ++ (lmsTree secret none).key

/-- The HSS signature of a message by lower index `i.2` under top index `i.1`: the level, the top tree's signature of the
lower tree's public key, that key, and the lower tree's signature of the message (R491, R493), its randomizer from
`rand`. -/
def hssSign (secret : List Byte) (i : Nat × Nat) (msg : List Byte) (rand : Nat) : List Byte :=
  let low := lmsTree secret (some i.1)
  beBytes 4 1 ++ (lmsTree secret none).sign i.1 (fitBytes 32 (Config.lmsRandom secret i.1)) low.key ++ low.key
    ++ low.sign i.2 (beBytes 32 rand) msg

end Sys2Proof.Machine
end

