-- ==== Sys2Proof/Machine/State.lean ====
section
/-! DEFINITION. The state of the GT-880, as plain data, and the state right after reset. -/
namespace Sys2Proof.Machine

/-! ### Outcomes -/

/-- Reasons to stop with a fault. No rule of the spec stops the machine without an effect, so no
meaning raises one; the type is kept for the interface. Safe. Log entry 16: DEDUCED. -/
inductive Fault where
  /-- raised by nothing -/
  | none
  deriving DecidableEq, Repr

/-- Reasons to refuse a command. -/
inductive Refusal where
  /-- an arm of `exec` without a meaning yet; raised by `exec` alone. Safe. -/
  | notModelled (mnemonic : String)
  deriving DecidableEq, Repr

/-! ### Names -/

/-- Job states in the order of their codes (R220). -/
inductive JobSt where
  | empty | loading | armed | running | held | paused | faulted | done
  deriving DecidableEq, Repr

/-- Device states by their codes in PCI_DEVSTATE (R508): 0 BOOTING, 1 READY, 2 BUSY, 3 MUTED, 4
RECOVERING, 5 FAILED are reported; the conditions that make them up are held here. -/
inductive DevCond where
  | off | booting | up | recovering | failed
  deriving DecidableEq, Repr

/-- Parts of the stream by Armature order (R225, R227). -/
inductive Part where
  | prologue | compute | exchange | commitA | commitB
  deriving DecidableEq, Repr

/-- Command queues (R188). -/
inductive Queue where
  | mxq | vxq | rdq | mvq | ctl
  deriving DecidableEq, Repr

/-- Where interlock beats are counted: the CHN_ILK registers (R203), JOB_ILKCTL (R229), SPD_CONFLICT
(R140), or nowhere. -/
inductive Ilk where
  | data | unit | aper | move | ctl | bank | none
  deriving DecidableEq, Repr

/-- Where bytes lie: a logical core's address space, a core's lookup-table store of generation
g + 1, HBM, host memory, a peer's HBM or a peer core's scratchpad. -/
inductive Loc where
  | core (c : Nat)
  | lut (c : Nat)
  | hbm
  | host
  | peer (rank : Nat) (core : Option Nat)
  deriving DecidableEq, Repr

/-- A run of bytes to be written. -/
structure Wr where
  loc : Loc
  addr : Nat
  bytes : List Byte
  deriving DecidableEq, Repr

/-- A footprint (R193): its hull runs and the rows within them, as first and last 64-byte line. -/
structure Foot where
  loc : Loc
  hull : List (Nat × Nat)
  rows : List (Nat × Nat)
  deriving DecidableEq, Repr

/-- A window on a core's move engine (R191): first beat, last beat, lines in the last beat, whether it writes, and the
banks that serve it a line in its last beat (R140). -/
structure Win where
  core : Nat
  first : Nat
  last : Nat
  lines : Nat
  wr : Bool
  banks : List Nat
  deriving DecidableEq, Repr

/-- The beats that a command loses to banks (R140): for each beat of its reads and of its writes, those of its own lines;
those of the streams that meet; and those for which its last reads and its last writes wait behind other moves. -/
structure Loss where
  rd : List Nat
  wr : List Nat
  free : Nat
  rwait : Nat
  wwait : Nat
  deriving DecidableEq, Repr

/-- A run of interlock beats of one kind: beats `first` up to but not including `stop`. -/
structure IlkIv where
  kind : Ilk
  core : Nat
  first : Nat
  stop : Nat
  deriving DecidableEq, Repr

/-- The field a fault names (R235): word, lowest bit, width minus one; all zero when none. -/
structure FieldRef where
  word : Nat
  bit : Nat
  wid : Nat
  deriving DecidableEq, Repr

/-- An event record (R235). -/
structure EvRec where
  code : Nat
  lcore : Nat
  lost : Bool
  die : Nat
  field : FieldRef
  cidx : DWord
  drone : Nat
  wall : Nat
  arg0 : DWord
  arg1 : DWord
  deriving DecidableEq, Repr

/-- A journal entry (R251). -/
structure JEntry where
  etype : Nat
  lcore : Nat
  argw : Word
  ridx : DWord
  arg : DWord
  dig : DWord
  deriving DecidableEq, Repr

/-- A completion record (R234), WRAP left to the write. -/
structure CRec where
  cidx : Nat
  opcode : Nat
  lcore : Nat
  flags : FlagWord
  hold : Bool
  fg : Bool
  ckf : Bool
  issue : Nat
  lat : Nat
  aux : DWord
  deriving DecidableEq, Repr

/-! ### Cores -/

/-- What one logical core holds. -/
structure Core where
  /-- scratchpad and, from 0x0060_0000, the accumulators (R73, R137) -/
  spd : Mem
  /-- lookup tables of the generation in force, by aperture offset (R108) -/
  lutCur : Mem
  /-- lookup tables of generation g + 1 -/
  lutNext : Mem
  /-- VXE_LUTGEN.CURGEN -/
  lutGen : Nat
  /-- VXE_LUTGEN.NEXTRDY -/
  lutRdy : Bool
  conflict : Word
  eccUncor : Half
  eccCor : Half
  eccAddr : Word
  ilkData : Word
  ilkUnit : Word
  ilkAper : Word
  ilkMove : Word
  dueMiss : Word
  vxeFlags : FlagWord
  fmCnt : Word
  chkCsum : Half
  chkRes : Half
  redRes : Half
  vecRes : Half
  deriving DecidableEq, Repr

/-- A core right after reset: every window register at its Reset column, memories zero. -/
def Core.reset : Core :=
  ⟨[], [], [], 0, false, 0, 0, 0, 0, 0, 0, 0, 0, 0, 0, 0, 0, 0, 0, 0⟩

/-! ### Job -/

/-- A job descriptor (R206). -/
structure Desc where
  jobid : DWord
  prio : Nat
  cls : Nat
  lmode : Bool
  segsp : Bool
  flagevt : Nat
  rank : Nat
  nrank : Nat
  cfgdig : DWord
  seed : DWord
  digkey : DWord
  segaddr : Nat
  craddr : Nat
  crlog2 : Nat
  pataddr : Nat
  patdig : DWord
  grpaddr : Nat
  grpdig : DWord
  jrnaddr : Nat
  jrnpages : Nat
  lwall : Nat
  deriving DecidableEq, Repr

/-- The descriptor before any job. Log entry 14: DESIGN CHOICE. -/
def Desc.none : Desc := ⟨0, 0, 0, false, false, 0, 0, 1, 0, 0, 2, 0, 0, 8, 0, 0, 0, 0, 0, 1, 0⟩

/-- A segment descriptor (R209). -/
structure SegDesc where
  /-- where it was read -/
  sp : Bool
  at_ : Nat
  caddr : Nat
  ncmd : Nat
  repeats : Nat
  last : Bool
  nsp : Bool
  csp : Bool
  cdig : DWord
  next : Nat
  deriving DecidableEq, Repr

/-- Where the fetch of the stream stands (R209 to R211). -/
inductive SegSt where
  /-- a descriptor is to be read at `addr`; `tries` reads so far mismatched SELFDIG -/
  | desc (sp : Bool) (addr : Nat) (tries : Nat)
  /-- its descriptor was read with NCMD = 0 and is read again every 1 µs -/
  | unwritten (sp : Bool) (addr : Nat)
  /-- its commands are to be fetched; `tries` reads so far mismatched CDIG -/
  | cmds (d : SegDesc) (tries : Nat)
  /-- commands delivered: those of the current pass not yet decoded, and the pass -/
  | pass (d : SegDesc) (all : List (List Word)) (rest : List (List Word)) (n : Nat)
  /-- the last pass of a LAST segment has ended -/
  | ended
  /-- the stream failed under R210 with an event already raised -/
  | failed (code : Nat)
  deriving DecidableEq, Repr

/-- A decoded command whose planned issue beat has not been reached. Log entry 111: DESIGN CHOICE. -/
structure Disp where
  idx : Nat
  cmd : Cmd
  /-- for the first command of a pass: NCMD, pass number, CDIG (R252) -/
  pass : Option (Nat × Nat × DWord)
  /-- the field at which the words are no command; `cmd` then only carries their header -/
  bad : Option FieldRef
  /-- the stream's position from which it was fetched -/
  pos : SegSt
  deriving DecidableEq, Repr

/-- A command from its planned issue beat to its retirement. -/
structure Flight where
  idx : Nat
  cmd : Cmd
  /-- logical core whose queue holds it; none for control commands -/
  core : Option Nat
  queue : Queue
  slot : Nat
  gslot : Option Nat
  tag0 : Nat
  ntag : Nat
  planned : Nat
  issue : Nat
  compl : Nat
  /-- planned issue plus contract latency (R200) -/
  pcompl : Nat
  occ : Nat
  issued : Bool
  frame : Nat
  part : Part
  reads : List Foot
  writes : List Foot
  /-- the runs that its destination resolved to at its issue (R294) -/
  dst : List (Nat × Nat)
  /-- beat of its last scratchpad read -/
  lastSpd : Nat
  wins : List Win
  ilk : List IlkIv
  /-- what it writes, known from its issue beat (or from its data's arrival) -/
  eff : List Wr
  flags : FlagWord
  fm : Nat
  ckf : Bool
  hold : Bool
  aux : DWord
  /-- chunks that must arrive from outside, and those that have -/
  need : Nat
  got : List (Nat × List Byte)
  /-- failed deliveries by chunk -/
  tries : List (Nat × Nat)
  /-- chunks whose resends are exhausted -/
  dead : List Nat
  /-- the HBM lines that it reads -/
  took : List (Nat × Nat)
  /-- what it wrote to a lookup-table store that has switched since (R109) -/
  landed : List Wr
  /-- its planned completion is known: what decides its latency stands -/
  sure : Bool
  /-- entry sums of an MMA's rows and columns (R82) -/
  sums : List Nat × List Nat
  /-- the operations of it that carry residues (R356), and whether its program runs in width-16 mode (R104) -/
  covers : List ResKind
  w16 : Bool
  /-- peer acknowledgements outstanding (R339) -/
  acks : Nat
  persWr : Bool
  pass : Option (Nat × Nat × DWord)
  /-- the stream's position from which it was fetched -/
  pos : SegSt
  deriving DecidableEq, Repr

/-- A fault that waits for earlier commands to complete (R201, R223). -/
structure Stop where
  idx : Nat
  code : Nat
  deriving DecidableEq, Repr

/-- The journal of the step in progress and the records that wait for room (R248 to R254). -/
structure Jrn where
  entries : List JEntry
  /-- records waiting to be written, oldest first, as whole byte strings -/
  waiting : List (List Byte)
  seq : Nat
  prevDig : DWord
  head : Nat
  tail : Nat
  stepDrone : Nat
  stepHeld : Int
  stepWall : Nat
  checkers : Nat
  flags : FlagWord
  /-- the records of the step in progress have been formed -/
  closed : Bool
  /-- 0x1C entries of retirements made outside a step, which the next step's record holds (R22) -/
  remapped : List JEntry
  deriving DecidableEq, Repr

/-- The journal at LOADING. -/
def Jrn.empty : Jrn := ⟨[], [], 0, 0, 0, 0, 0, 0, 0, 0, 0, false, []⟩

/-- DECIDE state and registers (R272 to R276, R289). Log entry 142: DEDUCED. -/
structure Dec where
  skip : Bool
  localL : Bool
  whyCol : Bool
  whyWat : Bool
  whyFin : Bool
  noff : Half
  first : Half
  skipRun : Word
  skipTot : Word
  skipLim : Word
  /-- a contribution of this step carried finite flag 1 -/
  colFlag : Bool
  deriving DecidableEq, Repr

/-- The decision registers at their Reset columns. -/
def Dec.reset : Dec := ⟨false, false, false, false, false, 0, 0xFFFF, 0, 0, 8, false⟩

/-- Everything that belongs to one job; a parked job keeps one of these (R417). Log entry 111: DESIGN CHOICE. -/
structure Job where
  desc : Desc
  /-- the descriptor's bytes as read, and where -/
  raw : List Byte
  descAddr : Nat
  stepBase : Word
  rplCtl : Word
  rplRef : Nat
  audCtl : Word
  repCtl : Word
  grpTable : List Byte
  /-- next command index to be dispatched -/
  next : Nat
  seg : SegSt
  disp : List Disp
  flights : List Flight
  part : Part
  /-- step in progress by Armature order; none in the prologue -/
  step : Option Nat
  /-- index of its STEP -/
  stepIdx : Nat
  /-- Drone at which the frame opened -/
  frame : Nat
  /-- planned issue beat of the last command planned -/
  lastPlanned : Nat
  /-- MUTE END has been planned -/
  ending : Bool
  stop : Option Stop
  /-- a PAUSE waits for its boundary (R222) -/
  pausePend : Bool
  /-- a pre-emption waits for its boundary (R413) -/
  preempt : Bool
  sigs : List Word
  crProd : Nat
  crPasses : Nat
  crPend : List CRec
  jrn : Jrn
  dec : Dec
  /-- the outcomes of DECIDEs by the index of their step's STEP: SKIP or not (R230) -/
  skips : List (Nat × Bool)
  flagEvt : Nat
  /-- contribution digests and weight digests of the step by command: index, digest, words (R366) -/
  csds : List (Nat × Nat × Nat)
  wdgs : List (Nat × Nat × Nat)
  /-- JOB_PHASE by beats (R225) -/
  phase : Nat
  /-- a batch boundary is due whose actions are not yet done (R291) -/
  bound : Bool
  /-- index of the COMMIT at whose completion it fell -/
  boundIdx : Option Nat
  boundUpd : Bool
  resets : Nat
  /-- indices of the job's STEPs, newest first -/
  steps : List Nat
  /-- a completed command stops the job at this beat's end: true in the next cycle (R364), false at
  its retirement (R143, R151, R161, R337, R372) -/
  kill : Option Bool
  /-- what stops it is a checker's finding or an uncorrectable word (R402) -/
  chk : Bool
  /-- one more than the highest index issued -/
  hi : Nat
  /-- a verifying job of R400 -/
  verifying : Bool
  /-- COMMITs that have completed: those of the job's first steps -/
  commits : Nat
  /-- a pre-emption was granted and waits for its SAVE (R414) -/
  saving : Bool
  /-- its restore has been verified (R400) -/
  verified : Bool
  /-- commands planned since the step's STEP, oldest first, which a diagnosis issues again (R408) -/
  since : List Disp
  deriving DecidableEq, Repr

/-- No job. Log entry 14: DESIGN CHOICE. -/
def Job.none : Job :=
  ⟨Desc.none, [], 0, 0, 0, 0, 0, 0, [], 0, .ended, [], [], .prologue, Option.none, 0, 0, 0, false,
   Option.none, false, false, List.replicate 64 0, 0, 0, [], Jrn.empty, Dec.reset, [], 0, [], [], 0,
   false, Option.none, false, 0, [], Option.none, false, 0, false, 0, false, false, []⟩


/-! ### Tables and Cast -/

/-- A table of two generations as a sparse list of (index, entry), every index not listed zero
(R148, R309, R313), with its load (R314, R315). -/
structure Table where
  gen : Nat
  cur : List (Nat × Nat)
  /-- JOB_TBLSTAT code: 0 none, 1 loading, 2 ready, 3 failed -/
  st : Nat
  nxt : List (Nat × Nat)
  apply : Word
  /-- EDIG of the image being fetched -/
  edig : DWord
  /-- a load has begun since the last switch and a switch has been made in the step (R405) -/
  switchedIn : Option Nat
  overwritten : Bool
  /-- the step words at whose boundaries generation g + 1 is due and not ready (R313, R314) -/
  due : List Word
  deriving DecidableEq, Repr

/-- An empty table of generation 0. -/
def Table.empty : Table := ⟨0, [], 0, [], 0, 0, none, false, []⟩

/-- The Cast state (R297, R299) and the load in progress. SIDE[p] is `inv`, the other way for the pages
listed in `side`; TOUCH lists the pages whose bit is 1. -/
structure Cast where
  p : Bool
  inv : Bool
  side : List Nat
  touch : List Nat
  nswitch : DWord
  /-- CKM_CAST.OPEN -/
  loadOpen : Bool
  /-- a shard MOVE of this batch met a bad manifest header (R303) -/
  badHdr : Bool
  /-- the scrubber's next entry (R307) -/
  scrub : Nat
  deriving DecidableEq, Repr

/-- A fresh Cast state. -/
def Cast.reset : Cast := ⟨false, false, [], [], 0, false, false, 0⟩

/-! ### Network -/

/-- Peer states of R343 in the order of their codes. -/
inductive PeerSt where
  | up | silent | recovering | rejoined | stopped
  deriving DecidableEq, Repr

/-- What is kept of one peer rank (R328, R343). -/
structure Peer where
  rank : Nat
  st : PeerSt
  devst : Nat
  jobst : Nat
  resets : Nat
  drone : Word
  unreach : Bool
  deriving DecidableEq, Repr

/-- An unacknowledged packet of a flow with its retries so far, whether it has gone out, and which modules of the rank
have acknowledged it: 0 the first, 1 the second of a Duo rank (R328, R346). -/
structure TxPkt where
  pkt : Packet
  tries : Nat
  sent : Bool
  acked : List Nat
  deriving DecidableEq, Repr

/-- One flow with a rank (R328): the next PSN to send, what is unacknowledged, the highest PSN
received in order, PSNs received beyond it, packets not yet acknowledged, whether a BUSY
stands, and whether 0x6010 has been raised of it. -/
structure Flow where
  rank : Nat
  nextPsn : Word
  unacked : List TxPkt
  rxNext : Word
  rxOoo : List Word
  rxPend : Nat
  busy : Bool
  told : Bool
  deriving DecidableEq, Repr

/-- A FLAG received for a DECIDE (R341, R366). Log entry 69: DEDUCED. -/
structure FlagRx where
  rank : Nat
  stepw : Word
  l : Bool
  csd : DWord
  ncsd : Nat
  nwdg : Nat
  wdg : DWord
  deriving DecidableEq, Repr

/-- A reassembled or partial chunk (R327, R329). -/
structure ChunkRx where
  rank : Nat
  stepw : Word
  cmdw : Word
  seg : Nat
  part : Nat
  chunk : Nat
  cdig : DWord
  /-- packets by number -/
  pkts : List (Nat × List Byte)
  /-- PSNs of its packets, which are acknowledged once it is whole -/
  psns : List Word
  whole : Bool
  tries : Nat
  deriving DecidableEq, Repr

/-- A frame of the collective protocol on the wire (R319, R320, R326): the rank, its address, none for the partner
on the Duo link, whose address is link-local; the port, the priority code point of its tag, UDP ports, and the
packet. -/
structure Frame where
  rank : Nat
  addr : Option (List Byte)
  port : Nat
  pcp : Nat
  sport : Nat
  dport : Nat
  pkt : Packet
  deriving DecidableEq, Repr

/-- A RoCEv2 reliable connection toward a rank (R336): the queue pair's number and the starting packet sequence
numbers. -/
structure RoceConn where
  rank : Nat
  qp : Nat
  psn : Nat
  deriving DecidableEq, Repr

/-- An RDMA operation sent to a peer on UDP port 4791 (R320, R336): an RDMA WRITE with its bytes, or an RDMA READ of
`len` bytes; with the port of its chunk and the priority code point of its tag (R319). -/
structure RoceOp where
  rank : Nat
  qp : Nat
  rkey : Word
  dport : Nat
  port : Nat
  pcp : Nat
  core : Option Nat
  addr : Nat
  len : Nat
  /-- the bytes of a WRITE; none for a READ -/
  bytes : Option (List Byte)
  deriving DecidableEq, Repr

/-- The NET block and the protocol engine. Log entry 105: DESIGN CHOICE. -/
structure Net where
  portUp : List Bool
  portAn : List Bool
  portPfc : List Bool
  laneOk : List Nat
  phy : List Nat
  fecCor : List Word
  fecUnc : List Word
  retx : Word
  dupDrop : Word
  busy : Word
  badTag : Word
  d2d : List Word
  peerSel : Half
  retOvf : Bool
  /-- copies kept under R344, by step word -/
  retain : List (Word × Packet)
  /-- sends not kept: step word and receiving rank -/
  unkept : List (Word × Nat)
  peers : List Peer
  flows : List Flow
  flagRx : List FlagRx
  chunks : List ChunkRx
  /-- SIGNAL keys already added: rank, step word, command word -/
  sigSeen : List (Nat × Word × Word)
  /-- frames sent, oldest first: the block's output -/
  tx : List Frame
  /-- a rate was lowered by congestion, by port (R319) -/
  slowed : List Bool
  /-- step words in which peer MOVE data reached a scratchpad (R345, R405) -/
  rdmaSpd : List Word
  /-- the connections made at launch (R336) -/
  conns : List RoceConn
  /-- operations sent to peers by MOVE and DIG, oldest first -/
  rdma : List RoceOp
  deriving DecidableEq, Repr

/-- The NET block at its Reset columns. -/
def Net.reset : Net :=
  ⟨List.replicate 4 false, List.replicate 4 false, List.replicate 4 false, List.replicate 4 0,
   List.replicate 4 0, List.replicate 4 0, List.replicate 4 0, 0, 0, 0, 0, List.replicate 4 0, 0,
   false, [], [], [], [], [], [], [], [], List.replicate 4 false, [], [], []⟩

/-- WALL and its discipline (R347, R348, R351, R535). -/
structure Ptp where
  wall : Nat
  /-- remainder of the cycle-to-nanosecond conversion, in units of 1 ÷ MHz ns -/
  frac : Nat
  lock : Bool
  good : Nat
  ofs : Int
  port : Nat
  ppsOk : Bool
  ppsGood : Nat
  ppsSwap : Bool
  /-- the correction in ns that rate adjustment has still to make (R348) -/
  adj : Int
  deriving DecidableEq, Repr

/-- A boundary message of R262: beat, commands completing, digest. -/
structure Bnd where
  beat : Nat
  count : Nat
  dig : DWord
  deriving DecidableEq, Repr

/-- Duo state (R260 to R264, R346). -/
structure Duo where
  mis : Bool
  lost : Bool
  beat : DWord
  idx : DWord
  rdOwn : DWord
  rdPtn : DWord
  /-- own boundaries not yet compared, and messages waiting to be sent -/
  own : List Bnd
  send : List Bnd
  /-- partner messages not yet compared -/
  ptn : List Bnd
  /-- last beat for which a partner message is held -/
  lastPtn : Nat
  /-- result digests kept: beat, index, the command's core (0xFF where it names none), RD -/
  rds : List (Nat × Nat × Nat × DWord)
  /-- the partner's loading digest -/
  ptnLoad : Option DWord
  ptnArmed : Bool
  /-- the device state that the partner's last keepalive reported (R328, R342) -/
  ptnDev : Nat
  /-- the mismatching beat while RDs are exchanged -/
  pendMis : Option Nat
  /-- the partner's RDs of that beat, in the order of its commands -/
  ptnRds : List DWord
  /-- DUO packets that wait for an earlier one, by PSN -/
  held : List Packet
  /-- the partner's boundaries of its last 131,072 beats -/
  seen : List Bnd
  /-- boundaries at earlier beats were formed before the last reset: a replay forms none of them again (R262) -/
  formed : Nat
  deriving DecidableEq, Repr

/-- No partner. -/
def Duo.reset : Duo :=
  ⟨false, false, 0, 0, 0, 0, [], [], [], 0, [], none, false, 0, none, [], [], [], 0⟩

/-! ### Audit and verdicts -/

/-- The guilt record of one logical core (R380): WALL of each charge in the window, the last action (0 none, 1 trim,
2 retirement, 3 clock step), the test flag; the pending action of its charges (1 item 1 of R382, 2 items 2 to 4) and
those of Patina, oldest first (3 a trim, 4 items 2 to 4). -/
structure Guilt where
  charges : List Nat
  last : Nat
  test : Bool
  pend : Option Nat
  patina : List Nat
  deriving DecidableEq, Repr

/-- A clean guilt record. -/
def Guilt.clean : Guilt := ⟨[], 0, false, none, []⟩

/-- The AUD block beside the journal (R266, R384). -/
structure Aud where
  stepBase : Word
  rplCtl : Word
  rplRefLo : Word
  rplRefHi : Word
  rplMis : Bool
  rplBad : Bool
  rplEtype : Nat
  rplStep : Word
  rplIdx : DWord
  /-- address of the next reference record -/
  rplPos : Nat
  audCtl : Word
  repCtl : Word
  amis : Bool
  rmis : Bool
  nomaj : Bool
  sedRank : Half
  sedStep : Word
  coreSel : Byte
  guilt : List Guilt
  deriving DecidableEq, Repr

/-! ### Checkpoint and recovery -/

/-- Whose an open epoch is: the current job's, the parked job's, or that of a job that has been released. -/
inductive EpochOf where
  | job | parked | gone
  deriving DecidableEq, Repr

/-- An epoch (R392 to R398). -/
structure Epoch where
  epoch : Word
  stepw : Word
  tgt : Nat
  target : DrainTarget
  castRec : List Byte
  key : Nat
  rank : Nat
  nrank : Nat
  /-- captured physical pages, ascending -/
  pages : List Nat
  /-- pages whose DRN bit is 1 -/
  drn : List Nat
  /-- staged copies in order: physical page, staging page -/
  staged : List (Nat × Nat)
  /-- pages written to the target with their digests -/
  done : List (Nat × DWord)
  /-- bytes of the STEP records of the epoch's step that have been appended, whether the last is among them, and
  whether one has CUT = 1 -/
  recLen : Nat
  recDone : Bool
  cut : Bool
  /-- the job that opened it -/
  by_ : EpochOf
  deriving DecidableEq, Repr

/-- What one entry of the drain target table reaches over RoCEv2 (R390): the device's queue pair, the remote one,
the remote address and key, and what the device wrote there by virtual address. -/
structure DrainPath where
  qp : Nat
  qpn : Word
  raddr : List Byte
  rkey : Word
  /-- its starting packet sequence number -/
  psn : Nat
  mem : Mem
  deriving DecidableEq, Repr

/-- The path of entry `i` before any use (R390). -/
def DrainPath.none (i : Nat) : DrainPath := ⟨0x20000 + i, 0, [], 0, 0, []⟩

/-- The MQT block. -/
structure Mqt where
  tgtLo : Word
  tgtHi : Word
  epoch : Option Epoch
  lastEpoch : Word
  lastTgt : Nat
  lastDone : Bool
  lastFail : Bool
  verify : Bool
  rstTgt : Nat
  rstSt : Nat
  rstAcc : Bool
  rstMis : Bool
  rstReason : Nat
  /-- header and Cast record of the restore in progress or done -/
  rstHdr : Option ImageHeader
  /-- the target entry that it reads (R390) -/
  rstEntry : Option DrainTarget
  rstCast : List Byte
  /-- bytes of the step record kept in die 0's staging reserve (R399) -/
  rstLen : Nat
  /-- the RoCEv2 paths of the four target entries -/
  remote : List DrainPath
  /-- writes of the host and of peers that wait for the copy of their page (R150) -/
  late : List Wr
  /-- by die, the free bytes that its control record last took, none where it never did (R388, R391) -/
  ctl : List (Option Nat)
  deriving DecidableEq, Repr

/-- The MQT block at its Reset columns. -/
def Mqt.reset : Mqt :=
  ⟨0, 0, none, 0, 0, false, false, false, 0, 0, false, false, 0, none, none, [], 0, (List.range 4).map DrainPath.none, [],
   List.replicate 4 Option.none⟩

/-- The resume record (R391, R414) with what a rejoin puts back (R404, R405). -/
structure Resume where
  stepw : Word
  stepIdx : Nat
  step : Option Nat
  frame : Nat
  pos : SegSt
  sigs : List Word
  patGen : Nat
  adtGen : Nat
  pat : List (Nat × Nat)
  adt : List (Nat × Nat)
  cast : Cast
  dec : Dec
  /-- each core's lookup tables: in force, next, generation, due -/
  luts : List (Mem × Mem × Nat × Bool)
  /-- the STEP's OFF -/
  off : Nat
  deriving DecidableEq, Repr

/-- The JOB registers of the ring and the requests (R510, R512, R513). -/
structure Ring where
  baseLo : Word
  baseHi : Word
  log2 : Nat
  cons : Half
  prod : Half
  /-- PRIO of each announced descriptor not yet read, oldest first -/
  waiting : List (BitVec 4)
  sigVal : Word
  crCons : Word
  ilkCtl : Word
  fltIdx : DWord
  fltCode : Half
  flagEvt : Nat
  tblLo : Word
  tblHi : Word
  tblTable : Nat
  deriving DecidableEq, Repr

/-- The job ring registers at their Reset columns. -/
def Ring.reset : Ring := ⟨0, 0, 0, 0, 0, [], 0, 0, 0, 0xFFFFFFFFFFFFFFFF, 0, 0, 0, 0, 0⟩

/-! ### Drone, events, host interface -/

/-- The DRN block (R204) and the hold in progress. -/
structure Drn where
  beat : Nat
  cyc : Nat
  held : Bool
  cause : Nat
  die : Nat
  core : Nat
  warn : Word
  cnt : List Word
  votes : List Vote
  /-- length of the hold in progress -/
  len : Nat
  deriving DecidableEq, Repr

/-- The DRN block at its Reset columns. -/
def Drn.reset : Drn := ⟨0, 0, false, 0, 0, 0xFF, 0x000CF850, List.replicate 16 0, [], 0⟩

/-- The event log (R514, R515): the newest 4,096 records by number. -/
structure Evt where
  head : Word
  tail : Word
  lostCnt : Word
  irqen : Half
  cnt : List Word
  log : List (Nat × EvRec)
  gap : Bool
  deriving DecidableEq, Repr

/-- An empty log. -/
def Evt.reset : Evt := ⟨0, 0, 0, 0x0FFE, List.replicate 16 0, [], false⟩

/-- One MSI-X vector: address, data, mask bit, pending bit (R508, R509). -/
structure Vector where
  addr : DWord
  data : Word
  mask : Bool
  pend : Bool
  deriving DecidableEq, Repr

/-- No grandmaster yet. Log entry 15: DESIGN CHOICE. -/
def Ptp.reset : Ptp := ⟨0, 0, false, 0, 0, 0, false, 0, false, 0⟩

/-- The AUD block at its Reset columns (R266, R384). -/
def Aud.reset : Aud :=
  ⟨0, 0, 0, 0, false, false, 0, 0, 0, 0, 0x003F0000, 0, false, false, false, 0xFFFF, 0, 0,
   List.replicate 192 Guilt.clean⟩

/-! ### Module: fuses, remap, power, clocks, flash, board -/

/-- A record of the retirement list (R19, R21). -/
inductive Retire where
  /-- logical core `l` moved from physical core `old` to `new` of its die -/
  | core (l old new : Nat)
  /-- spare `phys` of die `die` failed its known-answer test -/
  | spare (die phys : Nat)
  deriving DecidableEq, Repr

/-- What is fused or strapped, and the one-time-programmable memories (R3, R18, R19, R469, R482,
R491, R531). -/
structure Fused where
  /-- 0x01 GT880-M192, 0x02 GT880-M160 -/
  grade : Byte
  /-- stepping letter and digit of each compute die -/
  cdStep : List (Byte × Byte)
  iodStep : Byte × Byte
  /-- 0x01 FQ, 0x02 FP -/
  fitting : Byte
  serial : DWord
  straps : BitVec 2
  /-- for each die, the physical core of each logical position -/
  factory : List (List Nat)
  /-- for each die, its four spares in ascending order -/
  spares : List (List Nat)
  /-- the retirement list, oldest first -/
  retired : List Retire
  /-- revoked ECDSA and LMS key slots -/
  revEcdsa : List Nat
  revLms : List Nat
  svnFloor : Nat
  /-- fuses blown of the top-tree counter -/
  topIdx : Nat
  /-- the unique device secret (R485, R490) -/
  secret : List Byte
  deriving DecidableEq, Repr

/-- The remap table (R18, R23): generation, entries in force, physical core of each pending
retirement by logical core. -/
structure Remap where
  gen : Half
  cur : List Half
  pend : List (Nat × Nat)
  deriving DecidableEq, Repr

/-- A pending PHASE effect (R440): its beat, OPT, ICLASS. -/
structure PhaseEff where
  beat : Nat
  opt : Nat
  cls : Nat
  deriving DecidableEq, Repr

/-- The PWR, BLW and THM registers and the controller behind them (R428 to R453). Powers are in
1/8 W, ratios in 1/4,096. -/
structure Pwr where
  capRt : Nat
  ceff : Nat
  vin : Nat
  pin : Nat
  iin : Nat
  pest : Nat
  pmx : Nat
  /-- P_full of the last tick, and its activity counters by die (R434) -/
  pfull : Nat
  act : List (List Nat)
  /-- P_meas and P_est summed over the ticks of the millisecond in progress (R435) -/
  sumMeas : Nat
  sumEst : Nat
  /-- PWR_TRIP: IIN, VIN, TDIE, THBM, LEAK, SENSOR from bit 0 -/
  trip : BitVec 6
  /-- the compute part is without power (R446) -/
  off : Bool
  rho : Nat
  k : Nat
  meas : Bool
  /-- consecutive milliseconds outside [0.85, 1.15] and inside [0.90, 1.10] -/
  outMs : Nat
  inMs : Nat
  ilim : Nat
  itherm : Nat
  iguide : Nat
  cls : Nat
  opent : Nat
  /-- the class last passed to the regulators as a load feedforward (R441, R442) -/
  vrcls : Nat
  /-- learned non-matrix power by class in 1/32,768 W, once the first tick of the job has set it -/
  nc : Option (List Int)
  phase : Option PhaseEff
  /-- the last PHASE effect of BLW_GUIDE = 0: cycle number and the class it replaced (R451) -/
  phased : Option (Nat × Nat)
  throtDie : Option Nat
  throtHbm : Option Nat
  dInlet : Nat
  /-- 0x7003 has been raised in this job -/
  overload : Bool
  /-- 0x7014 stands -/
  hotInlet : Bool
  /-- a die or stack sensor is open, shorted or stuck (R445, R446) -/
  badSensor : Bool
  tdie : List Int
  thbm : List Int
  tin : Int
  tout : Int
  eslope : Nat
  /-- credit count C of R430 and the demand of the interval in progress (R432) -/
  credit : Nat
  sumD : Nat
  /-- cycles of the slope interval in progress -/
  ivCyc : Nat
  trims : List Nat
  margins : List Nat
  lowRuns : List Nat
  deriving DecidableEq, Repr

/-- The controller and its registers at their Reset columns. Log entry 37: DESIGN CHOICE. -/
def Pwr.reset : Pwr :=
  ⟨2800, 2800, 0, 0, 0, 0, 0, 0, List.replicate 4 (List.replicate 6 0), 0, 0, 0, false, 0x1000, 0x1000, false, 0, 0, 0x40, 0x40,
   0x40, 0, 0, 0, none, none, none, none, none, 0, false, false, false, List.replicate 4 0, List.replicate 12 0, 0, 0, 4, 0, 0, 0,
   List.replicate 192 0, List.replicate 192 0, List.replicate 192 0⟩

/-! ### Recovery -/

/-- A job parked under R417. Log entry 48: DESIGN CHOICE. -/
structure Parked where
  job : Job
  cores : List Core
  pat : Table
  adt : Table
  cast : Cast
  aud : Aud
  ring : Ring
  net : Net
  at_ : Nat
  count : Nat
  overrun : Word
  preMax : Word
  /-- the resume record of its step's STEP, to which a job marked for replay goes back -/
  resume : Option Resume
  replay : Bool
  /-- the resume record rewritten for x at G (R414) -/
  rec_ : Resume
  /-- CKM_RCVSTAT's cause and CKM_SLICE -/
  cause : Nat
  slice : Word
  /-- its replay and hang state (R404 to R406) -/
  replayTo : Option Nat
  kept : List JEntry
  last : List JEntry
  hang : Nat
  shdAfter : Bool
  adds : List (Nat × Word)
  lastBnd : Option Nat
  /-- its guidance (R438 to R442) -/
  pwr : Pwr
  duo : Duo
  /-- a descriptor has been read since -/
  served : Bool
  deriving DecidableEq, Repr

/-- Recovery (R402 to R410, R425). Log entry 70: DEDUCED. -/
structure Rcv where
  phase : Nat
  cause : Nat
  replayTo : Option Nat
  count : Nat
  slice : Word
  overrun : Word
  preMax : Word
  /-- Drone of the last command boundary; none before the first -/
  lastBnd : Option Nat
  resume : Option Resume
  /-- journal entries kept for comparison (R404) -/
  kept : List JEntry
  /-- the entries of the last closed step (R400) -/
  last : List JEntry
  /-- hang count (R406) -/
  hang : Nat
  /-- a hang is declared and no command has completed since -/
  hung : Bool
  /-- the suspects of the hang that triggered the reset (R407) -/
  suspects : List Nat
  /-- the core of the hung unit; none for a Chanter -/
  suspCore : Option Nat
  parked : Option Parked
  /-- WALL spent in the running slice, ns -/
  sliceNs : Nat
  /-- WALL at which the slice ended -/
  sliceEnd : Option Nat
  /-- the slice's end made a pre-emption request (R421) -/
  sliceAsk : Bool
  /-- a shadow write issued after the step's COMMIT completed (R405) -/
  shdAfter : Bool
  /-- an ABORT waits for the reset to end -/
  abortPend : Bool
  /-- a job PAUSED in place is marked for replay (R403) -/
  marked : Bool
  /-- the device was FAILED when the reset began -/
  failed : Bool
  /-- JOB_SIGADDs since the STEP, or since launch in the prologue -/
  adds : List (Nat × Word)
  deriving DecidableEq, Repr

/-- Recovery state at the Reset columns. -/
def Rcv.reset : Rcv :=
  ⟨0, 0, none, 0, 0, 0, 0, none, none, [], [], 0, false, [], none, none, 0, none, false, false, false, false, false, []⟩

/-- A signal that waits for the arithmetic clocks (R462, R471): a launch, or a RESUME or RESTORE with the CDIG of the segment
descriptor that is read again. -/
inductive Wake where
  | launch
  | resume (cdig : DWord)
  | restore (cdig : DWord)
  deriving DecidableEq, Repr

/-- The arithmetic clock (R464 to R470). -/
structure Clk where
  stopped : Bool
  aligned : Bool
  mhz : Nat
  nalign : Half
  tries : Nat
  /-- a clock step waits for the next batch boundary (R382, R466) -/
  stepTo : Option Nat
  /-- the dies whose PLLs lost lock and whose relock is not yet complete (R467) -/
  relock : List Nat
  /-- the hold of the relock is one that the loss began -/
  ownVote : Bool
  /-- what crosses to the arithmetic clocks once they run again, oldest first (R462, R471) -/
  wake : List Wake
  /-- core-rail voltage of each compute die in mV, 0 without power (R448) -/
  rail : List Nat
  deriving DecidableEq, Repr

/-- The clock at its Reset columns, with the guilt record's clock step at 850 MHz. -/
def Clk.reset : Clk := ⟨true, false, 850, 0, 0, none, [], false, [], List.replicate 4 0⟩

/-- STATE of a firmware slot (R483). -/
inductive SlotSt where
  | empty | pending | good | bad
  deriving DecidableEq, Repr

/-- A firmware slot in the boot control: STATE, TRIES and VERSION (R483). -/
structure FwSlot where
  st : SlotSt
  tries : Nat
  version : Nat
  deriving DecidableEq, Repr

/-- The payload of a flash region (R473): the boot control with BOOTCNT (R483); the header and records of the factory
image, which its signature block follows; the user image; the guilt record with the trims and the clock step (R380,
R382); the recorded limit of the attestation key state (R492); the certificate store for a serial and a grade (R490);
a firmware slot. Log entry 91: DESIGN CHOICE. -/
inductive Body where
  | control (slots : List FwSlot) (bootCnt : Nat)
  | factory (image : List Byte)
  | user (image : List Byte)
  | guilt (recs : List Guilt) (trims : List Nat) (mhz : Nat)
  | attest (limit : Nat)
  | certs (serial : DWord) (grade : Byte)
  | firmware (fw : FwPayload)
  deriving DecidableEq, Repr

/-- Payload bytes (R474, R477, R482), with widths of the model's own where the spec lays no payload out. Log entry 91: DESIGN
CHOICE. -/
def Body.len : Body → Nat
  | .control slots _ => 8 * slots.length + 4
  | .factory image => image.length + 96 + 8192
  | .user image => image.length
  | .guilt recs trims _ => 8 * (recs.map (fun g => g.charges.length)).sum + recs.length + trims.length + 4
  | .attest _ => 4
  | .certs _ _ => 16384
  | .firmware fw => 8352 + fw.body.length

/-- One device's copy of a region (R474): its header, HASH by the payload whose SHA-384 it is, none where no payload's, and
its payload. Log entry 91: DESIGN CHOICE. -/
structure Copy where
  kind : Nat
  len : Nat
  seq : Nat
  hash : Option Body
  body : Body
  deriving DecidableEq, Repr

/-- The two copies of a flash region, none where the region is erased (R473). -/
structure Copies where
  fl0 : Option Copy
  fl1 : Option Copy
  deriving DecidableEq, Repr

/-- Bytes of each region (R473). -/
def regionSize (i : Nat) : Nat :=
  [0x10000, 0x40000, 0x40000, 0x40000, 0x10000, 0x20000, 0x2000000, 0x2000000].getD i 0

/-- A copy written of region `i`, counted from 0 (R474). -/
def copyOf (i seq : Nat) (b : Body) : Copy := ⟨i + 1, b.len, seq, some b, b⟩

/-- A copy is valid for region `i` when KIND matches, LEN fits the region and HASH matches (R474). -/
def Copy.valid (c : Copy) (i : Nat) : Bool := c.kind == i + 1 && decide (64 + c.len ≤ regionSize i) && c.hash == some c.body

/-- A copy that does not read back. -/
def Copy.torn (c : Copy) : Copy := { c with hash := none }

/-- A write of a flash region that waits or is being made (R476, R488, R495): an update's, or one of Plinth or of the
management processor of region `i`, counted from 0. -/
inductive Upd where
  | slot (n : Nat) (fw : FwPayload)
  | user (payload : List Byte)
  | erase
  | own (i : Nat) (b : Body)
  deriving DecidableEq, Repr

/-- Who a certificate names (R490). -/
inductive CertName where
  | device | productCa | rootCa
  deriving DecidableEq, Repr

/-- A certificate of the certificate store (R490): its subject, its issuer, its subject key and, in the device identity
certificate, the Lamsadar extension with the module serial, the grade and the HSS attestation public key. -/
structure Cert where
  subject : CertName
  issuer : CertName
  key : List Byte
  ext : Option (DWord × Byte × List Byte)
  deriving DecidableEq, Repr

/-- What flash holds (R473 to R476): the copies of regions 1 to 8; and what Plinth keeps of the boot control (R483) and of the
attestation key state (R492). -/
structure Nv where
  copies : List Copies
  slots : List FwSlot
  bootCnt : Nat
  /-- lower-tree index next to use and the recorded limit -/
  attNext : Nat
  attLimit : Nat
  deriving DecidableEq, Repr

/-- The certificates that Lamsadar writes at test (R473, R490) for a module of this serial, grade and unique device
secret. -/
def certsOf (serial : DWord) (grade : Byte) (secret : List Byte) : List Cert :=
  [⟨.device, .productCa, (identityKey secret).2, some (serial, grade, attestKey secret)⟩,
   ⟨.productCa, .rootCa, Config.caKey 0, none⟩, ⟨.rootCa, .rootCa, Config.caKey 1, none⟩]

/-- `n` bytes of a number, little-endian (R5). -/
def le (n v : Nat) : List Byte := (List.range n).map (fun i => BitVec.ofNat 8 (v / 256 ^ i))

/-- The factory image of a module: every field at the default of R321, R373, R424, R452 and R478. Log entry 7:
DESIGN CHOICE. -/
def factoryImage : List (Nat × List Byte) :=
  [(0x0101, le 1 0), (0x0102, le 16 0), (0x0103, le 1 3), (0x0104, le 2 48200), (0x0105, le 2 16),
   (0x0106, le 1 32), (0x0107, le 2 100), (0x0108, le 2 10), (0x0109, le 2 512), (0x010A, le 2 2048),
   (0x010B, le 1 0), (0x010C, le 1 0), (0x010D, le 1 0), (0x010E, le 8 0)] ++
  [(0x0201, le 1 1), (0x0202, le 2 720), (0x0301, le 1 8), (0x0302, le 1 8),
   (0x0303, le 4 85000000), (0x0304, le 2 500), (0x0305, le 1 7), (0x0401, le 2 2800), (0x0402, le 2 200), (0x0403, le 1 0),
   (0x0404, (List.replicate 16 [64, 7]).flatten), (0x0405, le 4 0), (0x0406, le 1 8)] ++
  [(0x0501, le 4 100000), (0x0502, le 4 2), (0x0503, le 4 110592), (0x0504, le 4 0), (0x0505, le 4 1),
   (0x0506, le 1 4), (0x0507, le 2 256)]

/-- The records of an image in its order (R477, R480). -/
def canonical (img : List (Nat × List Byte)) : List Byte :=
  img.flatMap (fun r => le 2 r.1 ++ le 2 r.2.length ++ r.2 ++ List.replicate ((r.2.length + 3) / 4 * 4 - r.2.length) 0)

/-- The header and records of an image (R477). -/
def imageBytes (origin keyIdx : Nat) (img : List (Nat × List Byte)) : List Byte :=
  le 2 1 ++ le 1 origin ++ le 1 keyIdx ++ le 2 img.length ++ List.replicate 10 0 ++ canonical img

/-- What Lamsadar's test leaves in the eight regions (R473): slot A good, slot B empty, no user image. Log entry 7: DESIGN
CHOICE. -/
def factoryBodies : List (Option Body) :=
  [some (.control [⟨.good, 0, 1⟩, ⟨.empty, 0, 0⟩] 0), some (.factory (imageBytes 0 0 factoryImage)), none,
   some (.guilt (List.replicate 192 Guilt.clean) (List.replicate 192 0) 850), some (.attest 0), some (.certs 0 0x01),
   some (.firmware ⟨1, 1, 0, 0, [], [], true, true⟩), none]

/-- Flash as a fresh module carries it. Log entry 7: DESIGN CHOICE. -/
def Nv.reset : Nv :=
  ⟨factoryBodies.mapIdx (fun i b => let c := b.map (copyOf i 1); ⟨c, c⟩), [⟨.good, 0, 1⟩, ⟨.empty, 0, 0⟩], 0, 0, 0⟩

/-- The PLN block (R496). -/
structure Pln where
  slot : Nat
  trial : Bool
  userRej : Bool
  userAbs : Bool
  recov : Bool
  fwVer : Nat
  fwSvn : Nat
  fwDig : List Byte
  locked : Bool
  updLo : Word
  updHi : Word
  updLen : Word
  updSt : Nat
  updReason : Nat
  /-- writes of flash in the order of their arrival, the first being made (R495) -/
  flash : List Upd
  qLo : Word
  qHi : Word
  qSt : Nat
  qHss : Bool
  qLen : Nat
  cfgFull : List Byte
  cfgDig : DWord
  /-- the device identity key, private and public half, from stage B5 on (R490) -/
  idKey : Option (List Byte × List Byte)
  /-- serial and grade of the certificate store that stage B5 has read: none where the store is invalid (R475) -/
  store : Option (DWord × Byte)
  deriving DecidableEq, Repr

/-- The PLN block before boot. -/
def Pln.reset : Pln :=
  ⟨0, false, false, true, false, 0, 0, [], false, 0, 0, 0, 0, 0, [], 0, 0, 0, false, 0, [], 0, none, none⟩

/-- What PCIe configuration space holds beside the BAR2 size (R498): MSI-X Enable, Max_Payload_Size and Max_Read_Request_Size
in bytes, Completion Timeout Disable, the permit for relaxed ordering (R500), the power state, and the read errors that AER
has logged by their code in 0x6042. Log entry 132: PRESUMED. -/
structure PciCfg where
  msix : Bool
  payload : Nat
  readReq : Nat
  noTimeout : Bool
  relaxed : Bool
  d3hot : Bool
  aer : List Nat
  deriving DecidableEq, Repr

/-- Configuration space after a reset. Log entry 132: PRESUMED. -/
def PciCfg.reset : PciCfg := ⟨false, 128, 512, false, true, false, []⟩

/-- The PCI block (R507, R541). -/
structure Pci where
  /-- a link is up -/
  up : Bool
  speed : BitVec 4
  width : BitVec 5
  flit : Bool
  degr : Bool
  b2lo : Word
  b2hi : Word
  b2log2 : Nat
  uncor : List Half
  cor : List Half
  /-- stuck lines: I3C_SCL, I3C_SDA, SMB_CLK, SMB_DAT -/
  stuck : List Bool
  daddr : Option (BitVec 7)
  cfg : PciCfg
  /-- reads of host memory that ended in an error and are being made again: base address of the object, errors so far (R499) -/
  readErr : List (Nat × Nat)
  deriving DecidableEq, Repr

/-- A request that the device has sent on the PCIe link (R500): an MSI-X message, or a write of `len` bytes to host memory
with or without the relaxed-ordering attribute. -/
inductive Tlp where
  | msix (vec : Nat)
  | write (relaxed : Bool) (addr len : Nat)
  deriving DecidableEq, Repr

/-- The PCI block at its Reset columns. -/
def Pci.reset : Pci :=
  ⟨false, 0, 0, false, false, 0, 0, 36, List.replicate 4 0, List.replicate 4 0, List.replicate 4 false, none, PciCfg.reset, []⟩

/-- The management bus (R531, R532): whether the last SMBus request failed its PEC, and the quote
mailbox. -/
structure Mgmt where
  badPec : Bool
  box : Mem
  deriving DecidableEq, Repr

/-- The input stage (R522 to R525). -/
inductive Stage where
  | off | charging | closed | latched | reversed
  deriving DecidableEq, Repr

/-- The board (R521 to R542). Log entry 109: DESIGN CHOICE. -/
structure Board where
  stage : Stage
  /-- the stage's nonvolatile record, bits as PWR_INSTAT; and PWR_INSTAT itself -/
  record : Byte
  instat : Byte
  /-- the reading of a module trip, kept for the boot that reports it (R447) -/
  tripReading : Nat
  /-- LIMIT bits of PWR_AUX: the output is off -/
  limit : List Bool
  pump : Bool
  /-- LEAK code, LEAKR, consecutive wet and consecutive shorted readings -/
  leak : Nat
  leakR : Nat
  wetRun : Nat
  tinSt : Nat
  toutSt : Nat
  ref25 : Bool
  ppsReason : Nat
  ppsWidth : Nat
  deriving DecidableEq, Repr

/-- The board at its Reset columns, input stage closed. -/
def Board.reset : Board :=
  ⟨.closed, 0, 0, 0, List.replicate 5 false, false, 0, 0, 0, 0, 0, true, 0, 0⟩

/-! ### The whole machine -/

/-- The state of the device. -/
@[ext]
structure State where
  /-- commands waiting, first in first out -/
  pending : List Instr
  fus : Fused
  dev : DevCond
  jobSt : JobSt
  job : Job
  cores : List Core
  hbm : Mem
  /-- 64-byte lines, by address, that the patrol found uncorrectable (R153) -/
  badLines : List Nat
  /-- what the device wrote to host memory -/
  host : Mem
  pat : Table
  adt : Table
  /-- pages with WP = 1 (R147, R394) -/
  wp : List Nat
  remap : Remap
  cast : Cast
  net : Net
  ptp : Ptp
  duo : Duo
  aud : Aud
  mqt : Mqt
  rcv : Rcv
  drn : Drn
  evt : Evt
  ring : Ring
  msix : List Vector
  /-- HI words latched by a read of their LO word, by offset (R204) -/
  latch : List (Nat × Word)
  pci : Pci
  mgmt : Mgmt
  brd : Board
  pwr : Pwr
  clk : Clk
  nv : Nv
  pln : Pln
  /-- the effective configuration image by field ID (R478, R480) -/
  img : List (Nat × List Byte)
  /-- MSI-X messages and writes to host memory sent on the PCIe link, oldest first (R500) -/
  sent : List Tlp
  /-- what the last read returned to its requester -/
  reply : List Byte
  /-- uses of free values so far (log entry 1) -/
  free : Nat
  deriving DecidableEq, Repr

/-- The fuses of the module the model starts from: a GT880-M192-B1-FQ whose factory mapping is the
identity below its spares 48 to 51 (log entry 6: DESIGN CHOICE). -/
def Fused.reset : Fused :=
  ⟨0x01, List.replicate 4 (0x42, 0x31), (0x41, 0x32), 0x01, 0, 0, List.replicate 4 (List.range 48),
   List.replicate 4 [48, 49, 50, 51], [], [], [], 0, 0, Config.deviceSecret⟩

/-- The remap table built from the factory mapping (R18). Log entry 6: DESIGN CHOICE. -/
def Remap.reset : Remap :=
  ⟨0, (List.range 192).map (fun l => BitVec.ofNat 16 (0x8000 + l / 48 * 64 + l % 48)), []⟩

/-- The machine right after reset: every register at its Reset column, nothing loaded, BOOTING
(PCI_DEVSTATE, R507). Log entry 13: DESIGN CHOICE. -/
def State.reset : State :=
  { pending := [], fus := Fused.reset, dev := .booting, jobSt := .empty, job := Job.none,
    cores := List.replicate 192 Core.reset, hbm := [], badLines := [], host := [], pat := Table.empty,
    adt := Table.empty, wp := [], remap := Remap.reset, cast := Cast.reset, net := Net.reset,
    ptp := Ptp.reset, duo := Duo.reset, aud := Aud.reset, mqt := Mqt.reset, rcv := Rcv.reset,
    drn := Drn.reset, evt := Evt.reset, ring := Ring.reset,
    msix := List.replicate 7 ⟨0, 0, true, false⟩, latch := [], pci := Pci.reset,
    mgmt := ⟨false, []⟩, brd := Board.reset, pwr := Pwr.reset, clk := Clk.reset,
    nv := Nv.reset, pln := Pln.reset, img := factoryImage, sent := [], reply := [], free := 0 }

end Sys2Proof.Machine
end

