-- ==== Sys2Proof/Machine/Ops.lean ====
section
/-! DEFINITION. Operations shared by the commands: configuration fields, device state, interrupts,
the event log, free values, cycles and holds, reads and writes of every memory. -/
namespace Sys2Proof.Machine

/-! ### Identity and configuration -/

/-- Little-endian value of a byte string. -/
def leOf (bs : List Byte) : Nat := bs.foldr (fun b a => b.toNat + 256 * a) 0

/-- A field of an image by ID; absent fields read 0 (the effective image holds every field, R478). -/
def imgBytes (img : List (Nat × List Byte)) (id : Nat) : List Byte :=
  ((img.find? (fun r => r.1 == id)).map (fun r => r.2)).getD []

/-- A field of the effective image as a number. -/
def State.cfg (s : State) (id : Nat) : Nat := leOf (imgBytes s.img id)

/-- The effective cap in W for a derating of `d` W (R437). -/
def State.effCap (s : State) (d : Nat) : Nat := max 1200 (min (s.cfg 0x0401) s.pwr.capRt - d)

/-- Whether the configuration names a Duo partner (R317). -/
def State.duoOn (s : State) : Bool := s.cfg 0x0101 == 2

/-- Logical cores per die: 48 on the M192, 40 on the M160 (R17). -/
def State.perDie (s : State) : Nat := if s.fus.grade = 0x02 then 40 else 48

/-- Logical cores of the grade (R17). -/
def State.nCores (s : State) : Nat := 4 * s.perDie

/-- Logical cores that take commands in the loaded job's class (R215, R239). -/
def State.nActive (s : State) : Nat := if s.job.desc.cls = 2 then 160 else s.nCores

/-- Die of a logical core as commands name it: die-major over the class's cores (R17, R239). -/
def State.dieOf (s : State) (core : Nat) : Nat := core / (s.nActive / 4)

/-- Full scale of the demand (R429). -/
def State.dMax (s : State) : Nat := 16 * s.nActive

/-- The logical core that a command's core number names: itself, or under CLASS 0b10 the core that
virtual core `v` runs on (R239). -/
def State.logical (s : State) (v : Nat) : Nat :=
  if s.job.desc.cls = 2 then v / 40 * s.perDie + v % 40 else v

/-- The number by which commands and records name a logical core (R240): under CLASS 0b10 the virtual core that runs on
it; a core that takes no command there keeps its own number. -/
def State.named (s : State) (l : Nat) : Nat :=
  if s.job.desc.cls = 2 ∧ l % s.perDie < 40 then l / s.perDie * 40 + l % s.perDie else l

/-! ### Lists -/

/-- The element at `i` replaced. -/
def upd {α : Type} (l : List α) (i : Nat) (f : α → α) : List α := l.modify i f

/-- Adds to a table of (key, value) pairs, replacing the key's entry. -/
def put {α β : Type} [BEq α] (l : List (α × β)) (k : α) (v : β) : List (α × β) :=
  (k, v) :: l.filter (fun p => !(p.1 == k))

/-- Inserts into an ascending list of naturals without repeats. -/
def insertNat (a : Nat) : List Nat → List Nat
  | [] => [a]
  | b :: l => if a < b then a :: b :: l else if a = b then b :: l else b :: insertNat a l

/-- The entry of a sparse table, zero where none is listed. -/
def sparse (l : List (Nat × Nat)) (i : Nat) : Nat := (l.lookup i).getD 0

/-! ### States and interrupts -/

/-- The code of a job state in PCI_DEVSTATE (R507). -/
def JobSt.code : JobSt → Nat
  | .empty => 0 | .loading => 1 | .armed => 2 | .running => 3 | .held => 4 | .paused => 5 | .faulted => 6 | .done => 7

/-- The code of the device state (R220, R507). -/
def State.devst (s : State) : Nat :=
  match s.dev with
  | .off => 0 | .booting => 1 | .recovering => 5 | .failed => 6
  | .up =>
    match s.jobSt with
    | .empty => 2
    | .loading | .armed | .running | .held => 3
    | .paused | .faulted | .done => 4

/-- One occurrence of an MSI-X vector (R509): a message, or the PBA bit where the vector is masked or MSI-X is not enabled
(log entry 132: PRESUMED). Log entry 106: DESIGN CHOICE. -/
def State.irq (s : State) (v : Nat) : State :=
  match s.msix[v]? with
  | none => s
  | some e =>
    { s with
      msix := if e.mask || !s.pci.cfg.msix then s.msix.set v { e with pend := true } else s.msix
      sent := if e.mask || !s.pci.cfg.msix then s.sent else s.sent ++ [.msix v] }

/-- Sets the job state, with the interrupts of R508. -/
def State.setJob (s : State) (j : JobSt) : State :=
  if s.jobSt = j then s
  else
    let t := ({ s with jobSt := j }).irq 2
    if t.devst = s.devst then t else t.irq 6

/-- Sets the device condition, with the interrupt of R508. -/
def State.setDev (s : State) (d : DevCond) : State :=
  let t := { s with dev := d }
  if t.devst = s.devst then t else t.irq 6

/-- A launched job is in RUNNING or HELD. -/
def State.live (s : State) : Bool := s.jobSt == .running || s.jobSt == .held

/-! ### Events -/

/-- No field applies (R235). -/
def FieldRef.nil : FieldRef := ⟨0, 0, 0⟩

/-- A field by word, high bit, low bit; a 64-bit field by its low word. -/
def fieldAt (word hi lo : Nat) : FieldRef := ⟨word, lo, hi - lo⟩

/-- All ones: no command index. -/
def noIdx : DWord := 0xFFFFFFFFFFFFFFFF

/-- The log with one more event (R514, R515). -/
def Evt.add (e : Evt) (r : EvRec) : Evt :=
  let cls := r.code / 4096 % 16
  let cnt := upd e.cnt cls (fun c => BitVec.ofNat 32 (satAdd 32 c.toNat 1))
  if (e.head - e.tail).toNat = 4096 then
    { e with cnt := cnt, lostCnt := BitVec.ofNat 32 (satAdd 32 e.lostCnt.toNat 1), gap := true }
  else
    { e with
      cnt := cnt, head := e.head + 1, gap := false
      log := (if e.log.length ≥ 4096 then e.log.drop 1 else e.log) ++ [(e.head.toNat, { r with lost := e.gap })] }

/-- Raises an event: the record enters the log, and MSI-X vector 1 follows for an enabled class. -/
def State.event (s : State) (code lcore die : Nat) (f : FieldRef) (cidx arg0 arg1 : DWord) : State :=
  let r : EvRec := ⟨code, lcore, false, die, f, cidx, s.drn.beat, s.ptp.wall, arg0, arg1⟩
  let e := s.evt.add r
  let t := { s with evt := e }
  if e.head = s.evt.head then t
  else if e.irqen.getLsbD (code / 4096 % 16) then t.irq 1 else t

/-- An event of the module: LCORE 0xFF, no field, no command. -/
def State.ev (s : State) (code : Nat) (arg0 arg1 : Nat) : State :=
  s.event code 0xFF 0 FieldRef.nil noIdx (BitVec.ofNat 64 arg0) (BitVec.ofNat 64 arg1)

/-- An event of a command on a logical core. -/
def State.evCmd (s : State) (code lcore : Nat) (f : FieldRef) (idx arg0 arg1 : Nat) : State :=
  s.event code lcore (if lcore = 0xFF then 0 else s.dieOf lcore % 4) f (BitVec.ofNat 64 idx)
    (BitVec.ofNat 64 arg0) (BitVec.ofNat 64 arg1)

/-- The request-rejected event 0x9010 (R222). -/
def State.reject (s : State) (req : Nat) : State := s.ev 0x9010 req s.jobSt.code

/-! ### Free values -/

/-- A fresh free bit. Log entry 88: DESIGN CHOICE. -/
def State.bit (s : State) : Bool × State := (Config.freeBit s.free, { s with free := s.free + 1 })

/-- A fresh free number. -/
def State.nat (s : State) : Nat × State := (Config.freeNat s.free, { s with free := s.free + 1 })

/-- A fresh list of free bytes. -/
def State.bytes (s : State) (n : Nat) : List Byte × State :=
  ((List.range n).map (fun i => Config.freeByte (s.free + i)), { s with free := s.free + n })

/-! ### Time -/

/-- The part of a correction that rate adjustment makes in `n` ns: at most 200 ppm either way (R348). -/
def Ptp.slew (p : Ptp) (n : Nat) : Int :=
  let c := min p.adj.natAbs (Config.wallRate p.wall % (n / 5000 + 1))
  if p.adj < 0 then -c else c

/-- WALL after `n` arithmetic cycles at the clock in force, its rate adjusted (R348; log entry 9: DEDUCED; log entry 60:
DESIGN CHOICE). -/
def Ptp.pass (p : Ptp) (mhz n : Nat) : Ptp :=
  let t := p.frac + 1000 * n
  let k := t / mhz
  if p.adj = 0 then { p with wall := p.wall + k, frac := t % mhz }
  else { p with wall := ((p.wall + k : Nat) + p.slew k).toNat, frac := t % mhz, adj := p.adj - p.slew k }

/-- The effective limit L (R428). -/
def Pwr.limit (p : Pwr) : Nat := min (min p.ilim (min p.itherm p.iguide)) p.eslope

/-- The end of a slope interval of `n` cycles: the delivered activity sets the next ceiling (R432). -/
def Pwr.slopeEnd (p : Pwr) (n dMax : Nat) : Pwr :=
  { p with eslope := min 64 (64 * p.sumD / (dMax * n) + 4), sumD := 0, ivCyc := 0 }

/-- `n` cycles of demand `d` each within one slope interval of `mhz` cycles, none withheld: the credit grows by L and pays
for the demand (R430, R432). Log entry 79: DEDUCED. -/
def Pwr.part (p : Pwr) (mhz dMax d n : Nat) : Pwr :=
  let q := { p with
    credit := min (p.credit + n * (p.limit * dMax - 64 * d)) (64 * dMax - 64 * d), sumD := p.sumD + n * d, ivCyc := p.ivCyc + n }
  if mhz ≤ q.ivCyc then q.slopeEnd mhz dMax else q

/-- `n` such cycles over several intervals: from the second interval on their ceilings are equal (R432). Log entry 79:
DEDUCED. -/
def Pwr.spend (p : Pwr) (mhz dMax d n : Nat) : Pwr :=
  let k := min n (mhz - p.ivCyc)
  let m := min (n - k) mhz
  let q := (p.part mhz dMax d k).part mhz dMax d m
  let r := n - k - m
  { q with
    credit := min (q.credit + r * (q.limit * dMax - 64 * d)) (64 * dMax - 64 * d), sumD := q.sumD + r % mhz * d
    ivCyc := q.ivCyc + r % mhz }

/-- `n` held cycles: every voting cause is counted once a cycle (R198), and the limiters' credit grows (R430). Log
entry 9: DEDUCED. -/
def State.heldCycles (s : State) (n : Nat) : State :=
  let d := s.drn
  let causes := d.votes.map (fun v => v.cause.toNat)
  let cnt := (List.range 16).map (fun c =>
    let o := d.cnt.getD c 0
    if c ∈ causes then BitVec.ofNat 32 (satAdd 32 o.toNat n) else o)
  let t := s.ptp.pass s.clk.mhz n
  let hang := if causes.any (fun c => c != 0 && c != 5 && c != 6 && c != 7) then n else 0
  let fs := s.job.flights.map (fun f => if f.issued && decide (f.issue < d.beat) then { f with hold := true } else f)
  { s with
    job := { s.job with flights := fs }
    drn := { d with cyc := d.cyc + n, len := d.len + n, cnt := cnt }
    ptp := t
    pwr := s.pwr.spend s.clk.mhz s.dMax 0 n
    rcv := { s.rcv with sliceNs := s.rcv.sliceNs + (t.wall - s.ptp.wall), hang := s.rcv.hang + hang } }

/-- Held cycles, with the warning in the cycle in which the hold reaches its length (R199). Log entry 9: DEDUCED. -/
def State.passHeld (s : State) (n : Nat) : State :=
  let d := s.drn
  if d.warn.toNat ≠ 0 ∧ d.len < d.warn.toNat ∧ d.warn.toNat ≤ d.len + n then
    let k := d.warn.toNat - d.len
    ((s.heldCycles k).event 0x2040 d.core d.die FieldRef.nil noIdx (BitVec.ofNat 64 d.cause)
      (BitVec.ofNat 64 (d.beat % 2 ^ 32))).heldCycles (n - k)
  else s.heldCycles n

/-- The vote DRN_HOLD reports: lowest cause, then lowest die, then lowest core (R204). -/
def voteBefore (a b : Vote) : Bool :=
  a.cause.toNat < b.cause.toNat
    || (a.cause == b.cause && (a.die.toNat < b.die.toNat || (a.die == b.die && a.core.toNat ≤ b.core.toNat)))

/-- The reported vote of a list. -/
def lowVote : List Vote → Option Vote
  | [] => none
  | v :: vs =>
    match lowVote vs with
    | none => some v
    | some w => some (if voteBefore v w then v else w)

/-- A held cycle with its votes, the first of a hold or a further one; no cycle passes while the clocks stand (R466):
DRN_HOLD takes the lowest vote (R204), and each
core counts every due point of its own that votes hold and did not in the cycle before (R203). Votes name cores as
commands do (R240). -/
def State.enterHold (s : State) (votes : List Vote) : State :=
  match lowVote votes with
  | none => s
  | some v =>
    let new := votes.filter (fun w => w.core != 0xFF && !(s.drn.held && decide (w ∈ s.drn.votes)))
    let cs := s.cores.mapIdx (fun i c =>
      let n := (new.filter (fun w => s.logical w.core.toNat == i)).length
      if n = 0 then c else { c with dueMiss := BitVec.ofNat 32 (satAdd 32 c.dueMiss.toNat n) })
    let t := { s with
      cores := cs
      drn := { s.drn with
        held := true, cause := v.cause.toNat, die := v.die.toNat, core := v.core.toNat, votes := votes
        len := if s.drn.held then s.drn.len else 0 } }
    let u := t.setJob .held
    if s.clk.stopped then u else u.passHeld 1

/-- The hold ends. -/
def State.leaveHold (s : State) : State :=
  ({ s with drn := { s.drn with held := false, votes := [], len := 0 } }).setJob .running

/-- A hold that the device itself causes and ends within one command: `n` cycles of one cause. Log entry 135:
DESIGN CHOICE. -/
def State.ownHold (s : State) (cause n : Nat) : State :=
  if n = 0 then s
  else if s.jobSt = .running ∧ s.dev = .up then
    ((s.enterHold [⟨BitVec.ofNat 4 cause, 0, 0xFF⟩]).passHeld (n - 1)).leaveHold
  else s

/-! ### Memories -/

/-- One logical core, cleared where none exists. -/
def State.core (s : State) (c : Nat) : Core := s.cores.getD c Core.reset

/-- One logical core changed. -/
def State.setCore (s : State) (c : Nat) (f : Core → Core) : State := { s with cores := upd s.cores c f }

/-- First byte after HBM (R145). -/
def hbmEnd : Nat := 0xD800000000

/-- Bytes of a page (R147). -/
def pageSize : Nat := 0x200000

/-- Pages of the module (R147). -/
def nPages : Nat := 442368

/-- Where the 256-byte granule of an HBM address lies (R146): its stack, its pseudo-channel and its unit there. -/
def granuleOf (a : Nat) : Nat × Nat × Nat :=
  let d := a / 0x3600000000
  let g := a % 0x3600000000 / 256
  let p := g % 96
  (3 * d + p / 32, p % 32, g / 96)

/-- The page of an HBM address. -/
def pageOf (a : Nat) : Nat := a / pageSize

/-- The pages that bytes `a` to `a + n − 1` lie in. -/
def pagesIn (a n : Nat) : List Nat :=
  if n = 0 then [] else (List.range (pageOf (a + n - 1) - pageOf a + 1)).map (fun i => pageOf a + i)

/-- The pieces of `n` bytes from `a` that lie in one page each. -/
def pageRuns (a n : Nat) : List (Nat × Nat) :=
  (pagesIn a n).map (fun p =>
    let lo := max a (p * pageSize)
    (lo, min (a + n) ((p + 1) * pageSize) - lo))

/-- JTAG of a job: bits 31 to 0 of its DIGKEY (R326). -/
def Job.tag (j : Job) : Word := BitVec.ofNat 32 (j.desc.digkey.toNat % 2 ^ 32)

/-- A write to host memory goes out; one of data carries the relaxed-ordering attribute where the host permits it
(R500). -/
def State.sendWrite (s : State) (data : Bool) (addr len : Nat) : State :=
  { s with sent := s.sent ++ [.write (data && s.pci.cfg.relaxed) addr len] }

/-- The state after the bytes of `w` become visible; what goes to a peer leaves the module chunk by chunk
(`State.sendChunk`). -/
def State.store (s : State) (w : Wr) : State :=
  match w.loc with
  | .core c => s.setCore c (fun k => { k with spd := k.spd.setBytes w.addr w.bytes })
  | .lut c => s.setCore c (fun k => { k with lutNext := k.lutNext.setBytes w.addr w.bytes })
  | .hbm => { s with hbm := s.hbm.setBytes w.addr w.bytes }
  | .host => ({ s with host := s.host.setBytes w.addr w.bytes } : State).sendWrite true w.addr w.bytes.length
  | .peer _ _ => s

/-- A line that is written whole is written anew and no longer bad (R153). Log entry 122: DESIGN CHOICE. -/
def State.heal (s : State) (a n : Nat) : State :=
  { s with badLines := s.badLines.filter (fun l => !decide (a ≤ l ∧ l + 64 ≤ a + n)) }

/-- A write to host memory that no later one may pass and that passes none: a completion record or a SIGNAL word
(R500). -/
def State.storeOrdered (s : State) (a : Nat) (bs : List Byte) : State :=
  ({ s with host := s.host.setBytes a bs } : State).sendWrite false a bs.length

/-- Several writes in order. -/
def State.stores (s : State) (ws : List Wr) : State := ws.foldl State.store s

/-- Bytes of `bs`, which begin at `a`, with those that `w` writes replaced. -/
def patch (a : Nat) (bs : List Byte) (w : Nat × List Byte) : List Byte :=
  let n := bs.length
  let m := w.2.length
  if w.1 + m ≤ a ∨ a + n ≤ w.1 then bs
  else if w.1 ≤ a then
    let mid := (w.2.drop (a - w.1)).take n
    mid ++ bs.drop mid.length
  else
    let pre := w.1 - a
    let mid := w.2.take (n - pre)
    bs.take pre ++ mid ++ bs.drop (pre + mid.length)

/-- Visible bytes of a memory; what lies outside the module reads as the device last wrote it. -/
def State.raw (s : State) (l : Loc) (a n : Nat) : List Byte :=
  match l with
  | .core c => (s.core c).spd.read a n
  | .lut c => (s.core c).lutNext.read a n
  | .hbm => s.hbm.read a n
  | .host => s.host.read a n
  | .peer _ _ => List.replicate n 0

/-- Writes of issued commands before index `idx` that are not yet visible, in Armature order. -/
def State.inFlight (s : State) (idx : Nat) : List Wr :=
  ((s.job.flights.filter (fun f => f.issued && f.idx < idx)).map (fun f => f.eff)).flatten

/-- What command `idx` reads (R192): the visible bytes under the writes of earlier commands. -/
def State.view (s : State) (idx : Nat) (l : Loc) (a n : Nat) : List Byte :=
  (((s.inFlight idx).filter (fun w => w.loc == l)).map (fun w => (w.addr, w.bytes))).foldl (patch a)
    (s.raw l a n)

/-- One core's address space as command `idx` reads it. -/
def State.coreMem (s : State) (idx c : Nat) : Mem :=
  (((s.inFlight idx).filter (fun w => w.loc == .core c)).foldl (fun m w => m.setBytes w.addr w.bytes)
    (s.core c).spd)

/-- A reader of one core's address space for command `idx`: scratchpad and accumulators, and the
lookup tables of the generation in force through their aperture (R108, R137). -/
def State.reader (s : State) (idx c : Nat) : Reader :=
  let m := s.coreMem idx c
  let l := (s.core c).lutCur
  fun a => if 0x620000 ≤ a ∧ a < 0x620800 then l.get (a - 0x620000) else m.get a

/-! ### Faults and ends -/

/-- The fault location and code (R223): the lowest command index among the job's faults. -/
def State.noteFault (s : State) (idx code : Nat) : State :=
  let i := BitVec.ofNat 64 idx
  if s.ring.fltCode = 0 ∨ i.toNat < s.ring.fltIdx.toNat then
    { s with ring := { s.ring with fltIdx := i, fltCode := BitVec.ofNat 16 code } }
  else s

/-- Old and new bytes mixed by free bits from `k` (R222). -/
def mixBytes (k : Nat) (old new : List Byte) : List Byte :=
  (old.zip new).mapIdx (fun i p => if Config.freeBit (k + i) then p.2 else p.1)

/-- One write of an abandoned command: each byte keeps its value or takes the new one. -/
def State.mixStore (s : State) (w : Wr) : State :=
  let old := s.raw w.loc w.addr w.bytes.length
  let t := s.store { w with bytes := mixBytes s.free old w.bytes }
  { t with free := s.free + w.bytes.length }

end Sys2Proof.Machine
end

