-- ==== Sys2Proof/Machine/Stream.lean ====
section
/-! DEFINITION. Command words: the layout tables of R214 and R218, and the decoding of a command's
32 words. -/
namespace Sys2Proof.Machine

/-- A field of a command: word, high bit, low bit. -/
abbrev Field := Nat × Nat × Nat

/-- The header's fields (R214): OPCODE, LCORE, SLOT, CREC, OFF, SLACK, GSLOT. -/
def headerFields : List Field :=
  [(0, 31, 24), (0, 23, 16), (0, 15, 8), (0, 7, 7), (1, 31, 0), (2, 31, 16), (2, 11, 0)]

/-- The body's fields by opcode (R216, R218), in the order of the command's record; none for a
reserved opcode. A 64-bit field is its low word, then its high word. -/
def bodyFields : Nat → Option (List Field)
  | 0x01 =>
    some [(3, 31, 24), (3, 23, 16), (3, 15, 8), (3, 7, 0), (4, 31, 31), (4, 30, 30), (4, 29,
     29), (4, 14, 8), (4, 6, 0), (5, 23, 0), (6, 31, 0), (7, 31, 0), (8, 31, 0), (9, 31, 0),
     (10, 31, 0), (11, 31, 0), (12, 31, 0), (13, 31, 0), (14, 31, 0), (15, 31, 0), (16, 31,
     0)]
  | 0x02 =>
    some [(3, 31, 24), (3, 23, 16), (3, 15, 8), (3, 7, 0), (4, 31, 31), (4, 30, 30), (4, 29,
     29), (4, 14, 8), (4, 6, 0), (6, 31, 0), (7, 31, 0), (8, 31, 0), (9, 31, 0), (10, 31,
     0), (15, 31, 0), (16, 31, 0)]
  | 0x03 =>
    some [(3, 31, 24), (3, 23, 16), (3, 15, 8), (4, 31, 31), (4, 30, 30), (4, 29, 29), (4,
     22, 16), (4, 14, 8), (4, 6, 0), (5, 23, 0), (6, 31, 0), (7, 31, 0), (8, 31, 0), (9, 31,
     0), (10, 31, 0), (11, 31, 0), (12, 31, 0), (13, 31, 0), (14, 31, 0), (15, 31, 0), (16,
     15, 0), (17, 23, 16), (17, 15, 8), (17, 7, 0)]
  | 0x10 =>
    some [(3, 31, 0), (4, 31, 16), (4, 15, 0), (5, 31, 0), (6, 31, 0), (7, 31, 0), (8, 31,
     30), (9, 31, 0), (10, 31, 0), (11, 31, 0), (12, 31, 0), (13, 31, 24), (13, 23, 16),
     (13, 15, 14), (14, 31, 0), (15, 31, 0), (16, 31, 24), (16, 23, 16), (16, 15, 14), (17,
     31, 0), (18, 31, 0), (19, 31, 24), (19, 23, 16), (19, 15, 14), (20, 31, 0), (21, 31,
     0), (22, 31, 24), (22, 23, 16), (22, 15, 14), (23, 31, 0), (24, 31, 24), (24, 23, 23),
     (24, 22, 22), (25, 31, 0), (26, 31, 24), (26, 23, 23), (26, 22, 22)]
  | 0x11 =>
    some [(3, 31, 0), (4, 31, 16), (4, 15, 0), (5, 31, 0), (6, 31, 0), (7, 31, 24), (7, 23,
     16), (7, 15, 15), (7, 14, 14), (7, 13, 12), (7, 11, 11), (7, 10, 9), (7, 8, 8), (7, 7,
     4), (8, 31, 0), (9, 31, 0), (10, 31, 0), (11, 31, 0), (12, 31, 0)]
  | 0x12 =>
    some [(3, 31, 0), (4, 31, 16), (4, 15, 0), (5, 31, 0), (6, 31, 0), (7, 31, 24), (7, 23,
     16), (7, 15, 15), (7, 14, 14), (7, 13, 12), (7, 11, 11), (7, 7, 4), (8, 31, 0), (9, 31,
     0), (10, 31, 0)]
  | 0x18 =>
    some [(3, 31, 0), (4, 31, 0), (5, 31, 16), (5, 15, 0), (6, 31, 0), (7, 31, 24), (7, 23,
     16), (7, 15, 12), (7, 11, 8), (7, 7, 7)]
  | 0x20 =>
    some [(3, 31, 29), (3, 28, 26), (3, 25, 23), (3, 22, 21), (3, 20, 20), (4, 31, 0), (5,
     31, 0), (6, 31, 16), (6, 15, 15), (6, 7, 0), (7, 31, 0), (8, 31, 0), (9, 31, 16), (9,
     15, 15), (9, 7, 0), (10, 31, 0), (11, 31, 0), (12, 31, 16), (13, 31, 0), (14, 31, 16),
     (14, 8, 0), (15, 31, 0)]
  | 0x21 =>
    some [(3, 31, 0), (4, 31, 0), (5, 31, 0), (6, 31, 16), (6, 15, 0), (7, 31, 0), (8, 31,
     0), (9, 31, 0), (10, 31, 0), (11, 31, 0), (12, 31, 16), (12, 8, 0)]
  | 0x22 =>
    some [(3, 31, 29), (3, 28, 28), (4, 31, 0), (5, 31, 0), (6, 31, 16), (6, 15, 15), (6, 7,
     0), (7, 31, 0), (8, 31, 16), (9, 31, 0), (10, 31, 0), (11, 31, 16), (11, 8, 0)]
  | 0x23 =>
    some [(3, 31, 28), (3, 23, 16), (3, 15, 0), (4, 31, 0), (5, 31, 0), (6, 31, 29), (6, 28,
     26), (7, 31, 0), (8, 31, 0), (9, 31, 0), (10, 31, 16), (10, 8, 0)]
  | 0x30 =>
    some [(3, 5, 0), (4, 31, 0)]
  | 0x31 =>
    some [(3, 31, 28), (3, 5, 0), (4, 31, 0), (5, 31, 0), (6, 31, 0), (7, 31, 16)]
  | 0x32 =>
    some [(3, 31, 28), (3, 2, 0), (4, 31, 0)]
  | 0x33 =>
    some []
  | 0x34 =>
    some [(3, 15, 0), (4, 31, 0), (5, 7, 0)]
  | 0x35 =>
    some []
  | 0x36 =>
    some [(3, 31, 0), (4, 3, 0)]
  | 0x37 =>
    some [(3, 0, 0)]
  | 0x38 =>
    some [(3, 0, 0)]
  | 0x3F =>
    some [(3, 0, 0)]
  | _ => none

/-- The field's bits in a command's words. -/
def fieldOf (ws : List Word) (f : Field) : Nat := bits (ws.getD f.1 0).toNat f.2.1 f.2.2

/-- A value of a list as a bit vector of any width. -/
def vn {w : Nat} (v : List Nat) (i : Nat) : BitVec w := BitVec.ofNat w (v.getD i 0)

/-- A one-bit value. -/
def v1 (v : List Nat) (i : Nat) : Bool := v.getD i 0 == 1

/-- A 64-bit value, low word first. -/
def v64 (v : List Nat) (i : Nat) : DWord := BitVec.ofNat 64 (v.getD i 0 + 2 ^ 32 * v.getD (i + 1) 0)

/-- The command of an opcode from its field values. -/
def cmdOf (h : Hdr) (v : List Nat) : Nat → Option Cmd
  | 0x01 =>
    some (.mma ⟨h, (vn v 0), (vn v 1), (vn v 2), (vn v 3), (v1 v 4), (v1 v 5), (v1 v 6), (vn
      v 7), (vn v 8), (vn v 9), (vn v 10), (vn v 11), (vn v 12), (vn v 13), (vn v 14), (v64
      v 15), (v64 v 17), (vn v 19), (vn v 20)⟩)
  | 0x02 =>
    some (.mew ⟨h, (vn v 0), (vn v 1), (vn v 2), (vn v 3), (v1 v 4), (v1 v 5), (v1 v 6), (vn
      v 7), (vn v 8), (vn v 9), (vn v 10), (vn v 11), (vn v 12), (vn v 13), (vn v 14), (vn v
      15)⟩)
  | 0x03 =>
    some (.lra ⟨h, (vn v 0), (vn v 1), (vn v 2), (v1 v 3), (v1 v 4), (v1 v 5), (vn v 6), (vn
      v 7), (vn v 8), (vn v 9), (vn v 10), (vn v 11), (vn v 12), (vn v 13), (vn v 14), (vn v
      15), (vn v 16), (vn v 17), (vn v 18), (vn v 19), (vn v 20), (vn v 21), (vn v 22), (vn
      v 23)⟩)
  | 0x10 =>
    some (.vprog ⟨h, (vn v 0), (vn v 1), (vn v 2), (vn v 3), (vn v 4), (vn v 5), (vn v 6),
      (vn v 7), (vn v 8), ⟨(vn v 9), (vn v 10), (vn v 11), (vn v 12), (vn v 13)⟩, ⟨(vn v
      14), (vn v 15), (vn v 16), (vn v 17), (vn v 18)⟩, ⟨(vn v 19), (vn v 20), (vn v 21),
      (vn v 22), (vn v 23)⟩, ⟨(vn v 24), (vn v 25), (vn v 26), (vn v 27), (vn v 28)⟩, ⟨(vn v
      29), (vn v 30), (v1 v 31), (v1 v 32)⟩, ⟨(vn v 33), (vn v 34), (v1 v 35), (v1 v 36)⟩⟩)
  | 0x11 =>
    some (.qnt ⟨h, (vn v 0), (vn v 1), (vn v 2), (vn v 3), (vn v 4), (vn v 5), (vn v 6), (v1
      v 7), (v1 v 8), (vn v 9), (v1 v 10), (vn v 11), (v1 v 12), (vn v 13), (vn v 14), (vn v
      15), (vn v 16), (vn v 17), (vn v 18)⟩)
  | 0x12 =>
    some (.dqt ⟨h, (vn v 0), (vn v 1), (vn v 2), (vn v 3), (vn v 4), (vn v 5), (vn v 6), (v1
      v 7), (v1 v 8), (vn v 9), (v1 v 10), (vn v 11), (vn v 12), (vn v 13), (vn v 14)⟩)
  | 0x18 =>
    some (.vred ⟨h, (vn v 0), (vn v 1), (vn v 2), (vn v 3), (vn v 4), (vn v 5), (vn v 6),
      (vn v 7), (vn v 8), (v1 v 9)⟩)
  | 0x20 =>
    some (.move ⟨h, (vn v 0), (vn v 1), (vn v 2), (vn v 3), (v1 v 4), (v64 v 5), ⟨(vn v 7),
      (v1 v 8), (vn v 9)⟩, (v64 v 10), ⟨(vn v 12), (v1 v 13), (vn v 14)⟩, (vn v 15), (vn v
      16), (vn v 17), (vn v 18), ⟨(vn v 19), (vn v 20)⟩, (vn v 21)⟩)
  | 0x21 =>
    some (.gath ⟨h, (vn v 0), (vn v 1), (vn v 2), (vn v 3), (vn v 4), (v64 v 5), (vn v 7),
      (vn v 8), (vn v 9), ⟨(vn v 10), (vn v 11)⟩⟩)
  | 0x22 =>
    some (.dig ⟨h, (vn v 0), (v1 v 1), (v64 v 2), ⟨(vn v 4), (v1 v 5), (vn v 6)⟩, (vn v 7),
      (vn v 8), (vn v 9), (vn v 10), ⟨(vn v 11), (vn v 12)⟩⟩)
  | 0x23 =>
    some (.coll ⟨h, (vn v 0), (vn v 1), (vn v 2), (v64 v 3), (vn v 5), (vn v 6), (v64 v 7),
      (vn v 9), ⟨(vn v 10), (vn v 11)⟩⟩)
  | 0x30 =>
    some (.wait ⟨h, (vn v 0), (vn v 1)⟩)
  | 0x31 =>
    some (.signal ⟨h, (vn v 0), (vn v 1), (vn v 2), (v64 v 3), (vn v 5)⟩)
  | 0x32 =>
    some (.phase ⟨h, (vn v 0), (vn v 1), (vn v 2)⟩)
  | 0x33 =>
    some (.stepc h)
  | 0x34 =>
    some (.decide ⟨h, (vn v 0), (vn v 1), (vn v 2)⟩)
  | 0x35 =>
    some (.commit h)
  | 0x36 =>
    some (.snap ⟨h, (vn v 0), (vn v 1)⟩)
  | 0x37 =>
    some (.save h (v1 v 0))
  | 0x38 =>
    some (.restore h (v1 v 0))
  | 0x3F =>
    some (.mute h (v1 v 0))
  | _ => none

/-- The header from its field values. -/
def hdrOf (v : List Nat) : Hdr := ⟨vn v 1, vn v 2, v1 v 3, vn v 4, vn v 5, vn v 6⟩

/-- A word's bits that no field covers and that are set: the lowest run of uncovered bits that holds
one, as a field. -/
def reservedIn (fs : List Field) (w : Nat) (x : Nat) : Option FieldRef :=
  let covered := fun b => fs.any (fun f => f.1 == w && decide (f.2.2 ≤ b ∧ b ≤ f.2.1))
  match (List.range 32).find? (fun b => bitAt x b && !covered b) with
  | none => none
  | some b =>
    let lo := ((List.range b).reverse.takeWhile (fun i => !covered i)).length
    let hi := ((List.range (32 - b)).takeWhile (fun i => !covered (b + i))).length
    some ⟨w, b - lo, hi + lo - 1⟩

/-- A command's words decoded, or the fault of its words: a reserved opcode or a nonzero reserved
field, 0x2010 (R213, R215, R216). -/
def decodeCmd (ws : List Word) : Except FieldRef Cmd :=
  let op := fieldOf ws (0, 31, 24)
  match bodyFields op with
  | none => .error (fieldAt 0 31 24)
  | some body =>
    let fs := headerFields ++ body
    match (List.range 32).findSome? (fun w => reservedIn fs w (ws.getD w 0).toNat) with
    | some f => .error f
    | none =>
      match cmdOf (hdrOf (headerFields.map (fieldOf ws))) (body.map (fieldOf ws)) op with
      | some c => .ok c
      | none => .error (fieldAt 0 31 24)

/-- A 64-bit field's two words, low word first. -/
def pair64 (d : DWord) : List Nat := [d.toNat % 2 ^ 32, d.toNat / 2 ^ 32]

/-- A one-bit field's value. -/
def bitVal (b : Bool) : Nat := if b then 1 else 0

/-- A header's field values, OPCODE first (R214). -/
def hdrVals (op : Nat) (h : Hdr) : List Nat :=
  [op, h.lcore.toNat, h.slot.toNat, bitVal h.crec, h.off.toNat, h.slack.toNat, h.gslot.toNat]

/-- An input stream's field values. -/
def inVals (i : InSlot) : List Nat := [i.addr.toNat, i.saddr.toNat, i.fb.toNat, i.texp.toNat, i.bcast.toNat]

/-- An output stream's field values. -/
def outVals (o : OutSlot) : List Nat := [o.addr.toNat, o.fb.toNat, bitVal o.rmode, bitVal o.omode]

/-- An extension word's field values. -/
def extVals (e : Ext) : List Nat := [e.rank.toNat, bitVal e.psp, e.lcore.toNat]

/-- A tag word's field values. -/
def tagVals (t : Tags) : List Nat := [t.base.toNat, t.n1.toNat]

/-- A command's opcode, header and body field values, the body in the order of `bodyFields` (R216, R218). -/
def cmdVals : Cmd → Nat × Hdr × List Nat
  | .mma c => (0x01, c.hdr, [c.afb.toNat, c.bfb.toNat, c.atexp.toNat, c.btexp.toNat, bitVal c.bank, bitVal c.clr, bitVal c.rmode,
      c.m1.toNat, c.n1.toNat, c.k.toNat, c.aaddr.toNat, c.baddr.toNat, c.asaddr.toNat, c.bsaddr.toNat, c.srstream.toNat]
      ++ pair64 c.chain ++ pair64 c.koff ++ [c.roff.toNat, c.coff.toNat])
  | .mew c => (0x02, c.hdr, [c.afb.toNat, c.bfb.toNat, c.atexp.toNat, c.btexp.toNat, bitVal c.bank, bitVal c.clr, bitVal c.rmode,
      c.m1.toNat, c.n1.toNat, c.aaddr.toNat, c.baddr.toNat, c.asaddr.toNat, c.bsaddr.toNat, c.srstream.toNat,
      c.roff.toNat, c.coff.toNat])
  | .lra c => (0x03, c.hdr, [c.xfb.toNat, c.dfb.toNat, c.ufb.toNat, bitVal c.bank, bitVal c.clr, bitVal c.rmode, c.rank1.toNat,
      c.m1.toNat, c.n1.toNat, c.k.toNat, c.xaddr.toNat, c.xsaddr.toNat, c.daddr.toNat, c.dsaddr.toNat, c.uaddr.toNat,
      c.usaddr.toNat, c.iaddr.toNat, c.srstream.toNat, c.roff.toNat, c.coff.toNat, c.tgen.toNat, c.xtexp.toNat,
      c.dtexp.toNat, c.utexp.toNat])
  | .vprog c => (0x10, c.hdr, [c.paddr.toNat, c.rows1.toNat, c.cols1.toNat, c.roff.toNat, c.coff.toNat, c.srstream.toNat,
      c.msrc.toNat, c.maddr.toNat, c.moff.toNat] ++ inVals c.i0 ++ inVals c.i1 ++ inVals c.i2 ++ inVals c.i3 ++ outVals c.o0 ++ outVals c.o1)
  | .qnt c => (0x11, c.hdr, [c.saddr.toNat, c.rows1.toNat, c.cols1.toNat, c.daddr.toNat, c.dsaddr.toNat, c.dfb.toNat,
      c.dtexp.toNat, bitVal c.rmode, bitVal c.omode, c.rot.toNat, bitVal c.rside, c.ssrc.toNat, bitVal c.stat, c.sfmt.toNat,
      c.srstream.toNat, c.seaddr.toNat, c.staddr.toNat, c.roff.toNat, c.coff.toNat])
  | .dqt c => (0x12, c.hdr, [c.saddr.toNat, c.rows1.toNat, c.cols1.toNat, c.daddr.toNat, c.ssaddr.toNat, c.sfb.toNat,
      c.stexp.toNat, bitVal c.rmode, bitVal c.omode, c.rot.toNat, bitVal c.rside, c.dfmt.toNat, c.srstream.toNat, c.roff.toNat,
      c.coff.toNat])
  | .vred c => (0x18, c.hdr, [c.saddr.toNat, c.ssaddr.toNat, c.rows1.toNat, c.cols1.toNat, c.daddr.toNat, c.sfb.toNat,
      c.stexp.toNat, c.dfmt.toNat, c.op.toNat, bitVal c.axis])
  | .move c => (0x20, c.hdr, [c.sspace.toNat, c.dspace.toNat, c.form.toNat, c.esize.toNat, bitVal c.shard] ++ pair64 c.saddr
      ++ extVals c.sext ++ pair64 c.daddr ++ extVals c.dext ++ [c.spitch.toNat, c.dpitch.toNat, c.rows1.toNat, c.rowbytes.toNat]
      ++ tagVals c.tags ++ [c.pattern.toNat])
  | .gath c => (0x21, c.hdr, [c.iaddr.toNat, c.daddr.toNat, c.dpitch.toNat, c.nidx1.toNat, c.tgen.toNat] ++ pair64 c.tbase
      ++ [c.tstride.toNat, c.trows.toNat, c.rbytes.toNat] ++ tagVals c.tags)
  | .dig c => (0x22, c.hdr, [c.space.toNat, bitVal c.jrn] ++ pair64 c.addr ++ extVals c.ext
      ++ [c.pitch.toNat, c.rows1.toNat, c.rowbytes.toNat, c.raddr.toNat] ++ tagVals c.tags)
  | .coll c => (0x23, c.hdr, [c.cop.toNat, c.fb.toNat, c.group.toNat] ++ pair64 c.saddr ++ [c.sspace.toNat, c.dspace.toNat]
      ++ pair64 c.daddr ++ [c.count.toNat] ++ tagVals c.tags)
  | .wait c => (0x30, c.hdr, [c.ctr.toNat, c.value.toNat])
  | .signal c => (0x31, c.hdr, [c.tgt.toNat, c.ctr.toNat, c.value.toNat] ++ pair64 c.haddr ++ [c.rank.toNat])
  | .phase c => (0x32, c.hdr, [c.opt.toNat, c.iclass.toNat, c.lead.toNat])
  | .stepc h => (0x33, h, [])
  | .decide c => (0x34, c.hdr, [c.group.toNat, c.faddr.toNat, c.fcore.toNat])
  | .commit h => (0x35, h, [])
  | .snap c => (0x36, c.hdr, [c.epoch.toNat, c.dtgt.toNat])
  | .save h x => (0x37, h, [bitVal x])
  | .restore h x => (0x38, h, [bitVal x])
  | .mute h p => (0x3F, h, [bitVal p])

/-- One word of a command from its fields and their values; a bit of no field is 0 (R213). -/
def wordFrom (w : Nat) (fv : List (Field × Nat)) : Nat :=
  fv.foldr (fun p n => if p.1.1 = w then p.2 * 2 ^ p.1.2.2 + n else n) 0

/-- The 32 words of a command (R213 to R218). -/
def encodeCmd (c : Cmd) : List Word :=
  let (op, h, vs) := cmdVals c
  let fv := (headerFields ++ (bodyFields op).getD []).zip (hdrVals op h ++ vs)
  (List.range 32).map (fun w => BitVec.ofNat 32 (wordFrom w fv))

/-- A byte string as 32-bit words. -/
def wordsOf : List Byte → List Word
  | a :: b :: c :: d :: r =>
    BitVec.ofNat 32 (a.toNat + 256 * b.toNat + 65536 * c.toNat + 16777216 * d.toNat) :: wordsOf r
  | _ => []

/-- The commands of a segment's bytes, `n` of them (R213). -/
def commandsOf : Nat → List Word → List (List Word)
  | 0, _ => []
  | n + 1, ws => ws.take 32 :: commandsOf n (ws.drop 32)

end Sys2Proof.Machine

namespace Sys2Proof
open Sys2Proof.Machine

/-- A command's header. -/
def Cmd.hdr : Cmd → Hdr
  | .mma c => c.hdr | .mew c => c.hdr | .lra c => c.hdr | .vprog c => c.hdr | .qnt c => c.hdr
  | .dqt c => c.hdr | .vred c => c.hdr | .move c => c.hdr | .gath c => c.hdr | .dig c => c.hdr
  | .coll c => c.hdr | .wait c => c.hdr | .signal c => c.hdr | .phase c => c.hdr | .stepc h => h
  | .decide c => c.hdr | .commit h => h | .snap c => c.hdr | .save h _ => h | .restore h _ => h
  | .mute h _ => h

/-- A command's opcode (R216). -/
def Cmd.opcode : Cmd → Nat
  | .mma _ => 0x01 | .mew _ => 0x02 | .lra _ => 0x03 | .vprog _ => 0x10 | .qnt _ => 0x11
  | .dqt _ => 0x12 | .vred _ => 0x18 | .move _ => 0x20 | .gath _ => 0x21 | .dig _ => 0x22
  | .coll _ => 0x23 | .wait _ => 0x30 | .signal _ => 0x31 | .phase _ => 0x32 | .stepc _ => 0x33
  | .decide _ => 0x34 | .commit _ => 0x35 | .snap _ => 0x36 | .save _ _ => 0x37
  | .restore _ _ => 0x38 | .mute _ _ => 0x3F

/-- The queue of a command (R216); control commands enter none. -/
def Cmd.queue : Cmd → Queue
  | .mma _ | .mew _ | .lra _ => .mxq
  | .vprog _ | .qnt _ | .dqt _ => .vxq
  | .vred _ => .rdq
  | .move _ | .gath _ | .dig _ | .coll _ => .mvq
  | _ => .ctl

/-- MUTE END. -/
def Cmd.isEnd : Cmd → Bool
  | .mute _ false => true
  | _ => false

end Sys2Proof

namespace Sys2Proof.Machine

/-- A queue's depth (R188). -/
def Queue.depth : Queue → Nat
  | .mxq => 256 | .vxq => 256 | .rdq => 64 | .mvq => 96 | .ctl => 0

end Sys2Proof.Machine

namespace Sys2Proof
open Sys2Proof.Machine

/-- A move-class command's tags (R160). -/
def Cmd.tags : Cmd → Option Tags
  | .move c => some c.tags | .gath c => some c.tags | .dig c => some c.tags | .coll c => some c.tags
  | _ => none

end Sys2Proof
end

