-- ==== Sys2Proof/Machine/Plan.lean ====
section
/-! DEFINITION. What a command occupies: formats, draws, operands, footprints, paths, occupancy and
latency (R183 to R187, R191, R193, R294, R335). -/
namespace Sys2Proof.Machine

/-! ### Formats and draws -/

/-- The tensor format of a format byte (R217). -/
def tfOf (b : Byte) : Option Tf := Tf.ofByte b.toNat

/-- A tensor format where one is needed for shapes; FP32 for a reserved code, which the checks have
refused before. -/
def tfOr (b : Byte) : Tf := (tfOf b).getD ⟨.fp32, .none, 32⟩

/-- A format code of four bits. -/
def fmtOr (c : BitVec 4) : Fmt := (Fmt.ofCode c.toNat).getD .fp32

/-- The STEP that opened the frame of command `k`, with its step number (R244). -/
def stepOf : List Nat → Nat → Option (Nat × Nat)
  | [], _ => none
  | s :: l, k => if s ≤ k then some (l.length, s) else stepOf l k

/-- c3 of R244 for a named command: the step word. -/
def State.stepWord (s : State) (k : Nat) : Word :=
  match stepOf s.job.steps k with
  | some (n, _) => s.job.stepBase + BitVec.ofNat 32 n
  | none => 0xFFFFFFFF

/-- The step-relative index of a command (R244, R251). -/
def State.stepRel (s : State) (k : Nat) : Nat :=
  match stepOf s.job.steps k with
  | some (_, i) => k - i
  | none => k

/-- The draws of a stream for a named command (R243, R244). -/
def State.drawKey (s : State) (stream : Word) (k : Nat) : DrawKey :=
  Machine.drawKey s.job.desc.seed stream (s.stepWord k) (BitVec.ofNat 32 (s.stepRel k))

/-! ### Rank groups (R323) -/

/-- Bytes of the rank-group table as a number. -/
def State.grp (s : State) (off n : Nat) : Nat := leOf ((s.job.grpTable.drop off).take n)

/-- The members of a group in ascending rank; none where the table has no such group. -/
def State.members (s : State) (g : Nat) : Option (List Nat) :=
  if g = 0xFFFF then some (List.range s.job.desc.nrank)
  else if g < s.grp 8 4 then
    let d := s.grp 24 8 + 8 * g
    let o := s.grp d 4
    some ((List.range (s.grp (d + 4) 2)).map (fun i => s.grp (o + 2 * i) 2))
  else none

/-- The flags byte of a rank's entry (R323). -/
def State.rankFlags (s : State) (r : Nat) : Nat := s.grp (s.grp 16 8 + 48 * r + 32) 1

/-- This rank's position in a group. -/
def posIn (ms : List Nat) (r : Nat) : Nat := ms.findIdx (· == r)

/-! ### HBM addresses (R293, R294) -/

/-- An HBM address field: physical, CUR, SHD or reserved. -/
inductive AKind where
  | phys | cur | shd | bad
  deriving DecidableEq, Repr

/-- The kind in bits [63:62]. -/
def aKind (a : Nat) : AKind :=
  match a / 2 ^ 62 with
  | 0 => .phys
  | 1 => .cur
  | 2 => .shd
  | _ => .bad

/-- The HBM page that holds Cast page `p` in a copy (R294). -/
def State.castPage (s : State) (b : Bool) (p : Nat) : Nat :=
  (if b then s.cfg 0x0503 else s.cfg 0x0502) + p

/-- x of R294 for a Cast page. -/
def State.castX (s : State) (p : Nat) : Bool := xor s.cast.p (xor s.cast.inv (decide (p ∈ s.cast.side)))

/-- The HBM page that an address of a kind names at Cast page `p`. -/
def State.aliasPage (s : State) (k : AKind) (p : Nat) : Nat :=
  match k with
  | .cur => s.castPage (s.castX p) p
  | .shd => s.castPage (!s.castX p) p
  | _ => p

/-- A run of HBM bytes under an address kind, cut at page ends and resolved. -/
def State.resolveRun (s : State) (k : AKind) (o n : Nat) : List (Nat × Nat) :=
  (pagesIn o n).map (fun p =>
    let lo := max o (p * pageSize)
    let hi := min (o + n) ((p + 1) * pageSize)
    (s.aliasPage k p * pageSize + (lo - p * pageSize), hi - lo))

/-- The offset an address field holds below its kind bits. -/
def aOff (a : Nat) : Nat := a % 2 ^ 62

/-! ### Compute operands -/

/-- A scratchpad-side operand: the field that names it, its bytes, whether it must lie in the
scratchpad proper (R137), and whether it is written. -/
structure Opnd where
  f : FieldRef
  addr : Nat
  size : Nat
  sp : Bool
  wr : Bool
  deriving DecidableEq, Repr

/-- The element and scale planes of a tensor as operands. -/
def planeOps (p : Plane) (rows : Nat) (fe fs : FieldRef) (sp wr : Bool) : List Opnd :=
  ⟨fe, p.addr, p.size rows, sp, wr⟩ ::
    (if p.tf.sk = .none then [] else [⟨fs, p.saddr, p.ssize rows, sp, wr⟩])

/-- A word as a field. -/
def wordF (w : Nat) : FieldRef := fieldAt w 31 0

/-- The slots an LRA names, with their rows. -/
def lraSlots (rd : Reader) (c : LraCmd) : List (Nat × Nat) :=
  (List.range c.m).filterMap (fun i =>
    let s := lraSlot rd c i
    if s = 0xFFFF then none else some (i, s))

/-- The largest slot of an LRA, with which its plane sets end. -/
def lraTop (rd : Reader) (c : LraCmd) : Option Nat :=
  (lraSlots rd c).foldl (fun a p => some (match a with | none => p.2 | some b => max b p.2)) none

/-- The operands of a compute command on its own core (R193: each operand's run). -/
def computeOps (rd : Reader) (cmd : Cmd) : List Opnd :=
  match cmd with
  | .mma c =>
    planeOps (mmaA c (tfOr c.afb)) c.m (wordF 6) (wordF 8) true false
      ++ planeOps (mmaB c (tfOr c.bfb)) c.n (wordF 7) (wordF 9) true false
  | .mew c =>
    planeOps (mewA c (tfOr c.afb)) c.m (wordF 6) (wordF 8) true false
      ++ planeOps (mewB c (tfOr c.bfb)) c.m (wordF 7) (wordF 9) true false
  | .lra c =>
    let d := lraD c (tfOr c.dfb) 0
    let u := lraU c (tfOr c.ufb) 0
    let sets := match lraTop rd c with
      | none => []
      | some t =>
        planeOps d ((t + 1) * c.rank) (wordF 8) (wordF 9) true false
          ++ planeOps u ((t + 1) * c.n) (wordF 10) (wordF 11) true false
    planeOps (lraX c (tfOr c.xfb)) c.m (wordF 6) (wordF 7) true false
      ++ [⟨wordF 12, c.iaddr.toNat, 2 * c.m, true, false⟩] ++ sets
  | .vprog c =>
    let b := readBlock rd c.paddr.toNat
    let ins := (List.range (b.nin + 1)).flatMap (fun i =>
      let s := c.ins.getD i c.i0
      planeOps (inPlane s (tfOr s.fb) c.rows c.cols) (s.storedRows c.rows) (wordF (11 + 3 * i))
        (wordF (12 + 3 * i)) false false)
    let outs := (List.range b.nout).map (fun i =>
      let o := c.outs.getD i c.o0
      let p := rawPlane o.addr.toNat (tfOr o.fb).fmt c.cols
      (⟨wordF (23 + 2 * i), p.addr, p.size c.rows, false, true⟩ : Opnd))
    let mask := if c.msrc = 1 then
      [(⟨wordF 9, c.maddr.toNat, ceilDiv (c.rows * c.cols) 8, false, false⟩ : Opnd)] else []
    ⟨wordF 3, c.paddr.toNat, 80 + 4 * b.ninstr, true, false⟩ :: (ins ++ mask ++ outs)
  | .qnt c =>
    let s := qntSrc c (fmtOr c.sfmt)
    let d := qntDst c (tfOr c.dfb)
    let ng := groupsOf d.tf c.cols
    let se : List Opnd :=
      if d.tf.sk = .none then []
      else if c.ssrc = 1 then
        [⟨wordF 9, c.seaddr.toNat, 16 + 16 * leNat rd c.seaddr.toNat 2, true, true⟩]
      else if c.ssrc = 2 then [⟨wordF 9, c.seaddr.toNat, c.rows * ng, false, false⟩]
      else []
    let st : List Opnd := if c.stat then [⟨wordF 10, c.staddr.toNat, 16, false, true⟩] else []
    planeOps s c.rows (wordF 3) (wordF 3) false false
      ++ planeOps d c.rows (wordF 5) (wordF 6) true true ++ se ++ st
  | .dqt c =>
    planeOps (dqtSrc c (tfOr c.sfb)) c.rows (wordF 3) (wordF 6) false false
      ++ planeOps (dqtDst c (fmtOr c.dfmt)) c.rows (wordF 5) (wordF 5) false true
  | .vred c =>
    planeOps (vredSrc c (tfOr c.sfb)) c.rows (wordF 3) (wordF 4) false false
      ++ [⟨wordF 6, c.daddr.toNat, rowBytes (fmtOr c.dfmt) (vredOut c), false, true⟩]
  | _ => []

end Sys2Proof.Machine

namespace Sys2Proof
open Sys2Proof.Machine

/-- The bank an array command writes (R60, R80, R311). -/
def Cmd.bank : Cmd → Option Bool
  | .mma c => some c.bank
  | .mew c => some c.bank
  | .lra c => some c.bank
  | _ => none

end Sys2Proof

namespace Sys2Proof.Machine

/-! ### Regions of move-class commands -/

/-- Where a space code and its extension word lead (R156, R218). -/
def State.spaceLoc (s : State) (own : Nat) (sp : Nat) (e : Ext) : Loc :=
  match sp with
  | 0 => .core own
  | 1 => .core (s.logical e.lcore.toNat)
  | 2 => .hbm
  | 3 => .host
  | _ => .peer e.rank.toNat (if e.psp then some e.lcore.toNat else none)

/-- One side of a move-class command: field of its address, place, address field, row pitch, rows,
bytes a row, whether written. -/
structure Side where
  f : FieldRef
  sp : Nat
  ext : Ext
  addr : Nat
  pitch : Nat
  rows : Nat
  len : Nat
  wr : Bool
  deriving DecidableEq, Repr

/-- No extension. -/
def Ext.zero : Ext := ⟨0, false, 0⟩

/-- ESIZE in bytes (R218). -/
def esizeOf (e : BitVec 2) : Nat := 2 ^ e.toNat

/-- The longest packed stream of `n` uncompressed bytes in elements of ESIZE bytes (R174): 16-bit
formats share one bound. -/
def packBound (e : BitVec 2) (n : Nat) : Nat :=
  if e = 2 then packMax .fp32 (n / 4) else packMax .bf16 (n / 2)

/-- The largest length a side of COLL has: the contribution, or what the destination receives
(R331). -/
def collDst (cop n q cnt w : Nat) : Nat :=
  let u := 512 / w
  let l := ceilDiv cnt (n * u) * u
  match cop with
  | 2 => (min ((q + 1) * l) cnt - min (q * l) cnt) * w / 8
  | 3 => n * cnt * w / 8
  | _ => cnt * w / 8

/-- The sides of a move-class command in field order. The packed source of an UNPACK is given the maximum length of
R174. -/
def State.sides (s : State) (cmd : Cmd) : List Side :=
  match cmd with
  | .move c =>
    let rb := c.rowbytes.toNat
    let src : Side :=
      if c.form = 4 then ⟨wordF 4, c.sspace.toNat, c.sext, c.saddr.toNat, 0, 1, packBound c.esize (c.rows * rb), false⟩
      else ⟨wordF 4, c.sspace.toNat, c.sext, c.saddr.toNat, c.spitch.toNat, c.rows, rb, false⟩
    let dst : Side :=
      if c.form = 3 then ⟨wordF 7, c.dspace.toNat, c.dext, c.daddr.toNat, 0, 1, packBound c.esize (c.rows * rb), true⟩
      else if c.form = 1 then
        ⟨wordF 7, c.dspace.toNat, c.dext, c.daddr.toNat, c.dpitch.toNat, rb / esizeOf c.esize,
          c.rows * esizeOf c.esize, true⟩
      else ⟨wordF 7, c.dspace.toNat, c.dext, c.daddr.toNat, c.dpitch.toNat, c.rows, rb, true⟩
    if c.form = 2 then [dst] else [src, dst]
  | .gath c =>
    [⟨wordF 3, 0, Ext.zero, c.iaddr.toNat, 0, 1, 4 * c.nidx, false⟩,
     ⟨wordF 4, 0, Ext.zero, c.daddr.toNat, c.dpitch.toNat, c.nidx, c.rbytes.toNat, true⟩,
     ⟨wordF 7, 2, Ext.zero, c.tbase.toNat, 0, 1,
       (c.trows.toNat - 1) * c.tstride.toNat + c.rbytes.toNat, false⟩]
  | .dig c =>
    ⟨wordF 4, c.space.toNat, c.ext, c.addr.toNat, c.pitch.toNat, c.rows, c.rowbytes.toNat, false⟩ ::
      (if c.raddr = 0xFFFFFFFF then [] else [⟨wordF 10, 0, Ext.zero, c.raddr.toNat, 0, 1, 8, true⟩])
  | .coll c =>
    let ms := (s.members c.group.toNat).getD []
    let q := posIn ms s.job.desc.rank
    let w := (tfOr c.fb).fmt.width
    let b := rowBytes (tfOr c.fb).fmt c.count.toNat
    let contributes := c.cop ≠ 4 ∨ q = 0
    (if contributes then [⟨wordF 4, c.sspace.toNat, Ext.zero, c.saddr.toNat, 0, 1, b, false⟩] else [])
      ++ [⟨wordF 7, c.dspace.toNat, Ext.zero, c.daddr.toNat, 0, 1, collDst c.cop.toNat ms.length q c.count.toNat w, true⟩]
  | _ => []

/-- The row runs of a side as resolved addresses (R294); a shared row of all bytes is one run. -/
def State.sideRuns (s : State) (x : Side) : List (Nat × Nat) :=
  let k := if x.sp = 2 then aKind x.addr else .phys
  let a := if x.sp = 2 then aOff x.addr else x.addr
  (List.range x.rows).flatMap (fun r =>
    if x.len = 0 then []
    else if x.sp = 2 then s.resolveRun k (a + r * x.pitch) x.len
    else [(a + r * x.pitch, x.len)])

/-- Bytes from the first to the last of a side (R193). -/
def Side.span (x : Side) : Nat := if x.rows = 0 ∨ x.len = 0 then 0 else (x.rows - 1) * x.pitch + x.len

/-- A run of bytes as its first and last 64-byte line. -/
def linesOf (r : Nat × Nat) : Nat × Nat := (r.1 / 64, (r.1 + r.2 - 1) / 64)

/-- Bytes a command moves on one side. -/
def Side.bytes (x : Side) : Nat := x.rows * x.len

/-- The 64-byte lines that a side moves, in order (R191). -/
def Side.lines (x : Side) : List Nat :=
  (List.range x.rows).flatMap (fun r =>
    let a := x.addr + r * x.pitch
    (List.range (ceilDiv (a % 64 + x.len) 64)).map (fun i => a / 64 + i))

/-- A side's footprint. -/
def State.sideFoot (s : State) (own : Nat) (x : Side) : Foot :=
  let k := if x.sp = 2 then aKind x.addr else .phys
  let a := if x.sp = 2 then aOff x.addr else x.addr
  let hull := if x.span = 0 then [] else if x.sp = 2 then s.resolveRun k a x.span else [(a, x.span)]
  ⟨s.spaceLoc own x.sp x.ext, hull.map linesOf, (s.sideRuns x).map linesOf⟩

/-! ### The load manifest (R301) -/

/-- First byte of the manifest page. -/
def State.man (s : State) : Nat := s.cfg 0x0505 * pageSize

/-- A number in HBM. -/
def State.hnum (s : State) (a n : Nat) : Nat := leOf (s.hbm.read a n)

/-- First byte of a manifest entry. -/
def State.ment (s : State) (e : Nat) : Nat := s.man + 64 + 32 * e

/-- NSHARD. -/
def State.nShard (s : State) : Nat := s.hnum (s.man + 8) 4

/-- The entries that the manifest page holds: NSHARD of them, at most 65,534 (R301). -/
def State.nEntries (s : State) : Nat := min 65534 s.nShard

/-- The first entry that matches a shard's offset and length (R304). -/
def State.findShard (s : State) (off len : Nat) : Option Nat :=
  (List.range s.nEntries).find? (fun e => s.hnum (s.ment e) 8 == off && s.hnum (s.ment e + 8) 8 == len)

/-- What a shard MOVE writes of the manifest page: where it opens the load the header and every entry, else the
header and its own entry (R303, R304). -/
def State.manFoot (s : State) (c : MoveCmd) : List Foot :=
  if !c.shard then []
  else
    let runs := if s.cast.loadOpen then
        linesOf (s.man, 64) :: ((s.findShard (aOff c.daddr.toNat) (c.rows * c.rowbytes.toNat)).map (fun e => linesOf (s.ment e, 32))).toList
      else [linesOf (s.man, 64 + 32 * s.nEntries)]
    [⟨.hbm, runs, runs⟩]

/-- What a command reads and writes (R193), for its own core `own`. The decide block is DECIDE's
read. -/
def State.feet (s : State) (idx own : Nat) (cmd : Cmd) : List Foot × List Foot :=
  match cmd with
  | .decide c =>
    ([⟨.core (s.logical c.fcore.toNat), [linesOf (c.faddr.toNat, 8)], [linesOf (c.faddr.toNat, 8)]⟩], [])
  | .move _ | .gath _ | .dig _ | .coll _ =>
    let xs := s.sides cmd
    let man := match cmd with | .move c => s.manFoot c | _ => []
    ((xs.filter (fun x => !x.wr)).map (s.sideFoot own), (xs.filter (fun x => x.wr)).map (s.sideFoot own) ++ man)
  | _ =>
    let os := (computeOps (s.reader idx own) cmd).filter (fun o => o.size ≠ 0)
    let ft := fun (o : Opnd) =>
      (⟨.core own, [linesOf (o.addr, o.size)], [linesOf (o.addr, o.size)]⟩ : Foot)
    let rw := os.filter (fun o => o.wr && o.f == wordF 9)
    ((os.filter (fun o => !o.wr)).map ft ++ rw.map ft, (os.filter (fun o => o.wr)).map ft)

/-- The accumulator banks that footprints touch through the aperture (R73), by core. -/
def aperBanks (fs : List Foot) : List (Nat × Bool) :=
  fs.flatMap (fun f =>
    match f.loc with
    | .core c =>
      let hit := fun (lo : Nat) => f.hull.any (fun h => decide (h.1 < lo + 1024) && decide (lo ≤ h.2))
      (if hit 0x18000 then [(c, false)] else []) ++ (if hit 0x18400 then [(c, true)] else [])
    | _ => [])

/-! ### Occupancy and latency -/

/-- The beat count of an operand pair (R62). -/
def ppb (a b : Byte) : Nat := (prodsPerBeat (tfOr a).fmt (tfOr b).fmt).getD 8

/-- Occupancy of a compute command (R183). -/
def computeOcc (rd : Reader) (cmd : Cmd) : Nat :=
  match cmd with
  | .mma c => mmaOcc c (ppb c.afb c.bfb)
  | .mew c => mewOcc c (ppb c.afb c.bfb)
  | .lra c => lraOcc c (ppb c.xfb c.dfb)
  | .vprog c => vprogOcc c (readBlock rd c.paddr.toNat)
  | .qnt c => qntOcc c
  | .dqt c => dqtOcc c
  | .vred c => vredOcc c
  | _ => 1

/-- Hops of a route between two dies: one die-to-die edge each (R12, R184). -/
def hops (a b : Nat) : Nat := if a = b then 0 else if a + b = 3 then 2 else 1

/-- Dies that own any of the bytes from `a` on (R145), as far as a list of runs goes. -/
def diesOf (runs : List (Nat × Nat)) : List Nat :=
  runs.flatMap (fun r =>
    let a := r.1 / 0x3600000000
    let b := (r.1 + r.2 - 1) / 0x3600000000
    if a = b then [min a 3] else [min a 3, min b 3])

/-- Base and rate of the path of a side (R184), and whether its base grows with the command's hops. -/
def pathOf (x : Side) : Nat × Nat × Bool :=
  match x.sp with
  | 0 => (16, 256, false)
  | 1 => (48, 256, true)
  | 2 => (200, 256, true)
  | 3 => (2550, 64, false)
  | _ => (8500, 64, false)

/-- Hops from the issuing core's die to the farthest die that a side touches (R12, R184). -/
def State.sideHops (s : State) (own : Nat) (x : Side) : Nat :=
  let die := own / s.perDie
  match x.sp with
  | 1 => hops die (s.logical x.ext.lcore.toNat / s.perDie)
  | 2 => ((diesOf (if x.span = 0 then [] else s.resolveRun (aKind x.addr) (aOff x.addr) x.span)).map (hops die)).foldl max 0
  | _ => 0

/-- The larger base and the smaller rate of the paths of a command's sides, its hops counted to the farthest die that
it touches (R184). -/
def State.path (s : State) (own : Nat) (xs : List Side) : Nat × Nat :=
  let h := (xs.map (s.sideHops own)).foldl max 0
  xs.foldl (fun p x =>
    let (b, r, far) := pathOf x
    (max p.1 (b + if far then 32 * h else 0), min p.2 r)) (0, 256)

/-- Bytes that a move-class command's latency counts (R184). -/
def moveN (cmd : Cmd) : Nat :=
  match cmd with
  | .move c => c.rows * c.rowbytes.toNat
  | .gath c => c.nidx * c.rbytes.toNat
  | .dig c => c.rows * c.rowbytes.toNat
  | _ => 0

/-- The latency of COLL (R335). -/
def State.collLat (s : State) (own : Nat) (c : CollCmd) : Nat :=
  let n := ((s.members c.group.toNat).getD []).length
  let f := (tfOr c.fb).fmt
  let b := rowBytes f c.count.toNat
  if n ≤ 1 then
    let p := s.path own (s.sides (.coll c))
    p.1 + ceilDiv b p.2 + c.hdr.slack.toNat
  else
    let u := 512 / f.width
    let lb := ceilDiv c.count.toNat (n * u) * u * f.width / 8
    let (st, sz) := match c.cop.toNat with
      | 0 => (2, 2 * (n - 1) * lb)
      | 1 => (2, 2 * (n - 1) * lb)
      | 2 => (1, (n - 1) * lb)
      | _ => (1, (n - 1) * b)
    st * 8500 + ceilDiv sz 64 + c.hdr.slack.toNat

/-- Contract latency of a command (R183 to R185). -/
def State.latency (s : State) (idx own : Nat) (cmd : Cmd) : Nat :=
  match cmd with
  | .mma _ | .mew _ | .lra _ => computeOcc (s.reader idx own) cmd + 264
  | .vprog _ | .qnt _ | .dqt _ => computeOcc (s.reader idx own) cmd + 24
  | .vred _ => computeOcc (s.reader idx own) cmd + 12
  | .move c =>
    let p := s.path own (s.sides cmd)
    p.1 + ceilDiv (moveN cmd) (min p.2 (if c.form = 1 then 128 else 256)) + c.hdr.slack.toNat
  | .gath c =>
    (s.path own (s.sides cmd)).1 + 16 + ceilDiv (moveN cmd) 256 + c.hdr.slack.toNat
  | .dig c =>
    let p := s.path own ((s.sides cmd).take 1)
    p.1 + ceilDiv (moveN cmd) p.2 + c.hdr.slack.toNat
  | .coll c => s.collLat own c
  | .decide c => 64 + c.hdr.slack.toNat
  | .commit _ => 16
  | .snap _ => 1024
  | .save _ _ | .restore _ _ => 0
  | _ => 1

/-- Whether a command touches host memory or an Ethernet peer (R28, R215). -/
def State.touchesGdq (s : State) (cmd : Cmd) : Bool :=
  match cmd with
  | .coll c => decide (1 < ((s.members c.group.toNat).getD []).length) && decide (c.cop.toNat ≤ 4)
  | _ => (s.sides cmd).any (fun x => x.sp == 3 || x.sp == 4)

end Sys2Proof.Machine

namespace Sys2Proof
open Sys2Proof.Machine

/-- P at which an array command enters and leaves (R78, R312). -/
def Cmd.enterP : Cmd → Nat
  | .mma c => ppb c.afb c.bfb
  | .mew c => ppb c.afb c.bfb
  | .lra c => ppb c.xfb c.dfb
  | _ => 0

/-- P at which it leaves. -/
def Cmd.leaveP : Cmd → Nat
  | .lra _ => 2
  | c => c.enterP

/-- The weight u of R429 for an occupied array entry. -/
def Cmd.weight : Cmd → Nat
  | .mma c => if ppb c.afb c.bfb = 8 then 16 else if ppb c.afb c.bfb = 4 then 12 else 10
  | .lra c => if ppb c.xfb c.dfb = 8 then 16 else if ppb c.xfb c.dfb = 4 then 12 else 10
  | .mew _ => 2
  | _ => 0

end Sys2Proof
end

