-- ==== Sys2Proof/Machine/Check.lean ====
section
/-! DEFINITION. The checks of a command: header and fields (R200, R215), queue and tag allocation (R189, R160),
legality in the stream (R227), and the checks that read data or tables at issue (R92, R109, R149,
R168, R170, R295, R311). The order among one command's faults is the model's (log entry 10). -/
namespace Sys2Proof.Machine

/-- A failed check: event, field, ARG0, ARG1. -/
abbrev Chk := Option (Nat × FieldRef × Nat × Nat)

/-- Fails with `code` at a field where `b` holds. -/
def failIf (b : Bool) (code : Nat) (f : FieldRef) (a0 a1 : Nat := 0) : Chk :=
  if b then some (code, f, a0, a1) else none

/-- An illegal value, 0x2010 (R34). -/
def badIf (b : Bool) (f : FieldRef) : Chk := failIf b 0x2010 f

/-- The first failed check. -/
def firstChk (cs : List Chk) : Chk := cs.findSome? id

/-- Whether a group is missing or lacks this rank (R325). -/
def State.groupBad (s : State) (g : Nat) : Bool :=
  match s.members g with
  | none => true
  | some ms => !(decide (s.job.desc.rank ∈ ms))

/-! ### Header (R215) -/

/-- Whether a command carries SLACK (R184, R185). -/
def hasSlack : Cmd → Bool
  | .move _ | .gath _ | .dig _ | .coll _ | .decide _ => true
  | _ => false

/-- A COLL whose COP or GROUP is illegal: what it touches, and so its GSLOT, has no meaning, and its own field is the
one at fault (R325, R331). -/
def State.collLost (s : State) (cmd : Cmd) : Bool :=
  match cmd with
  | .coll c => decide (4 < c.cop.toNat) || s.groupBad c.group.toNat
  | _ => false

/-- The header's checks. -/
def State.chkHeader (s : State) (cmd : Cmd) : Chk :=
  let h := cmd.hdr
  let ctl := cmd.queue == .ctl
  let g := s.touchesGdq cmd
  let lost := s.collLost cmd
  firstChk [
    badIf (if ctl then h.lcore != 0xFF else decide (s.nActive ≤ h.lcore.toNat)) (fieldAt 0 23 16),
    badIf (ctl && h.slot != 0) (fieldAt 0 15 8),
    failIf (!ctl && decide (cmd.queue.depth ≤ h.slot.toNat)) 0x2003 (fieldAt 0 15 8),
    badIf (!hasSlack cmd && h.slack != 0) (fieldAt 2 31 16),
    failIf (g && !lost && decide (2048 ≤ h.gslot.toNat)) 0x2005 (fieldAt 2 11 0),
    badIf (!g && !lost && h.gslot != 0xFFF) (fieldAt 2 11 0)]

/-! ### Body fields -/

/-- A format byte the array accepts (R62). -/
def arrFmtBad (b : Byte) : Bool :=
  match tfOf b with
  | none => true
  | some t => t.fmt == .fp32

/-- A reserved tensor exponent of an E4M3-scaled tensor (R40). Log entry 35: DEDUCED. -/
def texpBad (b t : Byte) : Bool :=
  match tfOf b with
  | some x => x.sk == .e4m3 && t == 0x80
  | none => false

/-- A format code other than FP32, BF16 and FP16. -/
def wideBad (c : BitVec 4) : Bool := decide (2 < c.toNat)

/-- ceil(K ÷ P) within 1 to 2^20 (R77, R312). -/
def kBad (k p : Nat) : Bool := k == 0 || decide (2 ^ 20 < ceilDiv k p)

/-- Rotation of a row length (R132). -/
def rotBad (rot : BitVec 2) (cols : Nat) : Bool :=
  rot != 0 && cols % 2 ^ (rot.toNat + 4) != 0

/-- Not a multiple of 64. -/
def un64 (n : Nat) : Bool := n % 64 != 0

/-- The limits of R156 on a row length. -/
def rowBad (n : Nat) : Bool := un64 n || decide (n < 64) || decide (65536 < n)

/-- An extension word's faults for its space (R218, R336). -/
def State.extChk (s : State) (sp : Nat) (e : Ext) (w : Nat) : Chk :=
  match sp with
  | 1 => badIf (decide (s.nActive ≤ e.lcore.toNat)) (fieldAt w 7 0)
  | 4 => firstChk [
      badIf (decide (s.job.desc.nrank ≤ e.rank.toNat) || !bitAt (s.rankFlags e.rank.toNat) 0 || !bitAt (s.rankFlags s.job.desc.rank) 0) (wordF w),
      badIf (!e.psp && e.lcore != 0) (fieldAt w 7 0)]
  | _ => badIf (e != Ext.zero) (wordF w)

/-- Field checks of a MOVE (R156, R157, R174, R302). -/
def State.chkMove (s : State) (c : MoveCmd) : Chk :=
  let ss := c.sspace.toNat
  let ds := c.dspace.toNat
  let rb := c.rowbytes.toNat
  let fill := c.form = 2
  let es := esizeOf c.esize
  let dlen := if c.form = 1 then c.rows * es else rb
  firstChk [
    badIf (decide (4 < ss)) (fieldAt 3 31 29),
    badIf (decide (4 < ds)) (fieldAt 3 28 26),
    badIf (decide (4 < c.form.toNat)) (fieldAt 3 25 23),
    badIf (c.esize == 3 || (decide (3 ≤ c.form.toNat) && c.esize == 0)) (fieldAt 3 22 21),
    badIf (ss == 4 && ds == 4 && !fill) (fieldAt 3 28 26),
    badIf (c.shard && (ss != 3 || ds != 2 || aKind c.daddr.toNat != .shd || c.form != 0
      || aOff c.daddr.toNat % pageSize != 0 || (c.rows * rb) % pageSize != 0 || c.dpitch != c.rowbytes))
      (fieldAt 3 20 20),
    badIf (!fill && un64 c.saddr.toNat) (wordF 4),
    if fill then none else s.extChk ss c.sext 6,
    badIf (un64 c.daddr.toNat) (wordF 7),
    s.extChk ds c.dext 9,
    badIf (!fill && (un64 c.spitch.toNat || decide (c.spitch.toNat < rb))) (wordF 10),
    badIf (un64 c.dpitch.toNat || decide (c.dpitch.toNat < dlen)) (wordF 11),
    badIf (c.form == 1 && (un64 dlen || decide (65536 < dlen))) (fieldAt 12 31 16),
    badIf (rowBad rb) (wordF 13)]

/-- Field checks of a GATH (R167). -/
def chkGath (c : GathCmd) : Chk :=
  firstChk [
    badIf (un64 c.daddr.toNat) (wordF 4),
    badIf (un64 c.dpitch.toNat || decide (c.dpitch.toNat < c.rbytes.toNat)) (wordF 5),
    badIf (un64 c.tbase.toNat) (wordF 7),
    badIf (un64 c.tstride.toNat || decide (c.tstride.toNat < c.rbytes.toNat)) (wordF 9),
    badIf (rowBad c.rbytes.toNat) (wordF 11)]

/-- Field checks of a DIG (R218). -/
def State.chkDig (s : State) (c : DigCmd) : Chk :=
  firstChk [
    badIf (decide (4 < c.space.toNat)) (fieldAt 3 31 29),
    badIf (un64 c.addr.toNat) (wordF 4),
    s.extChk c.space.toNat c.ext 6,
    badIf (un64 c.pitch.toNat || decide (c.pitch.toNat < c.rowbytes.toNat)) (wordF 7),
    badIf (rowBad c.rowbytes.toNat) (wordF 9),
    badIf (c.raddr != 0xFFFFFFFF && (c.raddr.toNat % 8 != 0 || decide (0x600000 < c.raddr.toNat + 8))) (wordF 10)]

/-- Field checks of a COLL (R325, R331). -/
def State.chkColl (s : State) (c : CollCmd) : Chk :=
  let f := tfOf c.fb
  let w := (tfOr c.fb).fmt.width
  firstChk [
    badIf (decide (4 < c.cop.toNat)) (fieldAt 3 31 28),
    badIf (match f with
      | none => true
      | some t => t.sk != .none || (decide (c.cop.toNat ≤ 2) && decide (16 > w))) (fieldAt 3 23 16),
    badIf (s.groupBad c.group.toNat) (fieldAt 3 15 0),
    badIf ((c.sspace != 0 && c.sspace != 2) || (c.dspace != 0 && c.dspace != 2)) (fieldAt 3 15 0),
    badIf (c.count == 0 || (c.count.toNat * w) % 512 != 0) (wordF 9)]

/-- Field checks of a command (R77, R88, R132, R156, R272, R331, R392, R440). -/
def State.chkBody (s : State) (idx : Nat) (cmd : Cmd) : Chk :=
  match cmd with
  | .mma c => firstChk [
      badIf (arrFmtBad c.afb) (fieldAt 3 31 24), badIf (arrFmtBad c.bfb) (fieldAt 3 23 16),
      badIf (texpBad c.afb c.atexp) (fieldAt 3 15 8), badIf (texpBad c.bfb c.btexp) (fieldAt 3 7 0),
      badIf (kBad c.k.toNat (ppb c.afb c.bfb)) (fieldAt 5 23 0),
      badIf (c.clr && c.chain.toNat != idx) (wordF 11), badIf (c.clr && c.koff != 0) (wordF 13)]
  | .mew c => firstChk [
      badIf (arrFmtBad c.afb) (fieldAt 3 31 24), badIf (arrFmtBad c.bfb) (fieldAt 3 23 16),
      badIf (texpBad c.afb c.atexp) (fieldAt 3 15 8), badIf (texpBad c.bfb c.btexp) (fieldAt 3 7 0)]
  | .lra c => firstChk [
      badIf (arrFmtBad c.xfb) (fieldAt 3 31 24), badIf (arrFmtBad c.dfb) (fieldAt 3 23 16),
      badIf (arrFmtBad c.ufb) (fieldAt 3 15 8),
      badIf (kBad c.k.toNat (ppb c.xfb c.dfb)) (fieldAt 5 23 0),
      badIf (texpBad c.xfb c.xtexp) (fieldAt 17 23 16), badIf (texpBad c.dfb c.dtexp) (fieldAt 17 15 8),
      badIf (texpBad c.ufb c.utexp) (fieldAt 17 7 0)]
  | .vprog c => firstChk [
      badIf (c.msrc == 3) (fieldAt 8 31 30), badIf (c.paddr.toNat % 64 != 0) (wordF 3)]
  | .qnt c => firstChk [
      badIf (arrFmtBad c.dfb) (fieldAt 7 31 24), badIf (texpBad c.dfb c.dtexp) (fieldAt 7 23 16),
      badIf (rotBad c.rot c.cols) (fieldAt 7 13 12), badIf (c.ssrc == 3) (fieldAt 7 10 9),
      badIf (wideBad c.sfmt) (fieldAt 7 7 4),
      badIf ((tfOr c.dfb).sk != .none && c.ssrc == 1 && c.seaddr.toNat % 64 != 0) (wordF 9)]
  | .dqt c => firstChk [
      badIf ((tfOf c.sfb).isNone) (fieldAt 7 31 24), badIf (texpBad c.sfb c.stexp) (fieldAt 7 23 16),
      badIf (rotBad c.rot c.cols) (fieldAt 7 13 12), badIf (wideBad c.dfmt) (fieldAt 7 7 4)]
  | .vred c => firstChk [
      badIf ((tfOf c.sfb).isNone) (fieldAt 7 31 24), badIf (texpBad c.sfb c.stexp) (fieldAt 7 23 16),
      badIf (wideBad c.dfmt) (fieldAt 7 15 12), badIf (decide (5 < c.op.toNat)) (fieldAt 7 11 8)]
  | .move c => s.chkMove c
  | .gath c => chkGath c
  | .dig c => s.chkDig c
  | .coll c => s.chkColl c
  | .signal c => firstChk [
      badIf (c.tgt != 1 && c.tgt != 2) (fieldAt 3 31 28),
      badIf (c.tgt == 2 && decide (s.job.desc.nrank ≤ c.rank.toNat)) (fieldAt 7 31 16)]
  | .phase c =>
    if s.cfg 0x0403 = 0 then badIf (c.opt != 0) (fieldAt 3 31 28) else badIf (c.iclass != 0) (fieldAt 3 2 0)
  | .decide c => firstChk [
      badIf (match s.members c.group.toNat with
        | none => true
        | some ms => ms.length != s.job.desc.nrank) (fieldAt 3 15 0),
      badIf (c.faddr.toNat % 8 != 0) (wordF 4),
      failIf (decide (0x600000 < c.faddr.toNat + 8)) 0x2006 (wordF 4) c.faddr.toNat,
      badIf (decide (s.nActive ≤ c.fcore.toNat)) (fieldAt 5 7 0)]
  | .snap c => badIf (decide (4 ≤ c.dtgt.toNat)) (fieldAt 4 3 0)
  | _ => none

/-! ### Core addresses (R137) -/

/-- End of the range of R137 that an address lies in; 0 in the reserved range. -/
def rangeEnd (a : Nat) : Nat :=
  if a < 0x600000 then 0x600000 else if a < 0x620000 then 0x620000 else if a < 0x620800 then 0x620800 else 0

/-- A run of core bytes that leaves its range, or that begins outside the scratchpad where it must
lie in it. -/
def coreBad (a n : Nat) (sp : Bool) : Bool :=
  n != 0 && (decide (rangeEnd a < a + n) || (sp && decide (0x600000 ≤ a)))

/-- Address checks of a compute command's operands, 0x2006 with the operand's address in ARG0. Only MOVE writes the
lookup-table store (R108). Log entry 36: DEDUCED. Log entry 113: DESIGN CHOICE. -/
def chkOps (os : List Opnd) : Chk :=
  firstChk (os.map (fun o =>
    failIf (coreBad o.addr o.size o.sp || (o.wr && o.size != 0 && decide (0x620000 ≤ o.addr))) 0x2006 o.f o.addr))

/-- Address checks of a move-class command's scratchpad sides, 0x2006. Log entry 36: DEDUCED. -/
def chkSides (mv : Bool) (xs : List Side) : Chk :=
  firstChk (xs.map (fun x =>
    if x.sp = 0 ∨ x.sp = 1 then
      failIf (coreBad x.addr x.span false || (!mv && x.wr && decide (0x620000 ≤ x.addr))) 0x2006 x.f x.addr
    else none))

/-- The bytes of an UNPACK's packed source that it reads: its stream's length, at most the maximum of R174. -/
def State.unpackLen (s : State) (idx own : Nat) (x : Side) : Nat :=
  let l := s.spaceLoc own x.sp x.ext
  min x.len (packedLen ((s.sideRuns x).flatMap (fun r => s.view idx l r.1 r.2)))

/-- The sides of a command as its own words fix them: of an UNPACK's stream that lies in a scratchpad, its header (R137,
R174). -/
def State.worded (s : State) (cmd : Cmd) : List Side :=
  match cmd, s.sides cmd with
  | .move c, src :: r => if c.form = 4 && decide (src.sp < 2) then { src with len := 64 } :: r else src :: r
  | _, xs => xs

/-- The sides of a command as it accesses them: an UNPACK reads its stream and no byte after it (R137, R149). -/
def State.accessed (s : State) (idx own : Nat) (cmd : Cmd) : List Side :=
  match cmd, s.sides cmd with
  | .move c, src :: r => if c.form = 4 && decide (src.sp ≤ 2) then { src with len := s.unpackLen idx own src } :: r else src :: r
  | _, xs => xs

/-! ### Allocation (R160, R187, R189) -/

/-- SLOT, GSLOT and tag conflicts with commands in flight, at planned issue beat `p`. Where no command conflicts, ARG0
of 0x2034 is TAGBASE. Log entry 113: DESIGN CHOICE. -/
def State.chkAlloc (s : State) (cmd : Cmd) (p : Nat) : Chk :=
  let h := cmd.hdr
  let core := s.logical h.lcore.toNat
  let fs := s.job.flights.filter (fun f => p < f.pcompl)
  let clash := fs.find? (fun f =>
    cmd.queue != .ctl && f.queue == cmd.queue && f.core == some core && f.slot == h.slot.toNat)
  let gclash := fs.find? (fun f => s.touchesGdq cmd && f.gslot == some h.gslot.toNat)
  let tagc : Chk := match cmd.tags with
    | none => none
    | some t =>
      let lo := t.base.toNat
      let hi := lo + t.ntag
      let held := s.job.flights.filter (fun f => decide (f.ntag ≠ 0))
      let f := fieldAt (match cmd with | .move _ => 14 | .gath _ => 12 | .dig _ => 11 | _ => 10) 31 16
      match held.find? (fun g => lo < g.tag0 + g.ntag && g.tag0 < hi) with
      | some g => some (0x2034, f, g.idx, 0)
      | none =>
        let own := (held.filter (fun g => g.core == some core)).foldl (fun n g => n + g.ntag) 0
        failIf (decide (512 < own + t.ntag) || decide (65536 < hi) || decide (512 < t.ntag)) 0x2034 f lo
  firstChk [
    match clash with | some f => some (0x2004, fieldAt 0 15 8, f.idx, 0) | none => none,
    match gclash with | some f => some (0x2005, fieldAt 2 11 0, f.idx, 0) | none => none,
    tagc]

/-- A command longer than R187 permits; a VPROG's length follows from its program block. -/
def State.chkLong (s : State) (idx own : Nat) (cmd : Cmd) : Chk :=
  let long := match cmd.queue with
    | .ctl | .mvq => decide (2 ^ 20 < s.latency idx own cmd)
    | _ => decide (2 ^ 20 < computeOcc (s.reader idx own) cmd)
  let f := match cmd with
    | .mma _ => fieldAt 5 23 0 | .mew _ => fieldAt 4 14 8 | .lra _ => fieldAt 5 23 0
    | .vprog _ => fieldAt 4 31 16 | .qnt _ => fieldAt 4 31 16 | .dqt _ => fieldAt 4 31 16
    | .vred _ => fieldAt 5 31 16 | .move _ => fieldAt 12 31 16 | .gath _ => fieldAt 6 31 16
    | .dig _ => fieldAt 8 31 16 | .coll _ => wordF 9 | _ => fieldAt 2 31 16
  failIf long 0x2008 f

/-! ### Legality (R225 to R231) -/

/-- The phase code of R235. -/
def Part.code : Part → Nat
  | .prologue => 0 | .compute => 1 | .exchange => 2 | .commitA => 4 | .commitB => 4

/-- Whether a command is legal in a part of the stream, leaving PERS writes aside (R227). -/
def legalIn (p : Part) (cmd : Cmd) : Bool :=
  match cmd with
  | .stepc _ | .mute _ false => p == .prologue || p == .commitB
  | .decide _ => p == .compute || p == .exchange
  | .commit _ => p == .commitA
  | .snap _ => p == .prologue || p == .compute
  | .save _ _ | .restore _ _ => false
  | _ => true

/-- A page's attribute bit in the generation in force (R147). -/
def State.attr (s : State) (page bit : Nat) : Bool := bitAt (sparse s.pat.cur page) bit

/-- The pages a command's HBM destination rows lie in, resolved. -/
def State.destPages (s : State) (cmd : Cmd) : List Nat :=
  match cmd with
  | .move _ | .coll _ =>
    ((s.sides cmd).filter (fun x => x.wr && x.sp == 2)).flatMap (fun x =>
      (s.sideRuns x).flatMap (fun r => pagesIn r.1 r.2))
  | _ => []

/-- The first page with PERS = 1 that a command writes. -/
def State.persPage (s : State) (cmd : Cmd) : Option Nat := (s.destPages cmd).find? (fun p => s.attr p 13)

/-- A command that part `p` of the stream does not admit (R227, R231). -/
def chkPlace (p : Part) (cmd : Cmd) : Chk :=
  let opf := fieldAt 0 31 24
  match cmd with
  | .save _ _ | .restore _ _ => some (0x9003, opf, p.code, 0)
  | _ => failIf (!legalIn p cmd) 0x9001 opf p.code

/-- A write to a PERS page where part `p` admits none (R227), under the tables in force. -/
def State.chkPers (s : State) (p : Part) (cmd : Cmd) : Chk :=
  let shard := match cmd with | .move c => c.shard | _ => false
  match s.persPage cmd with
  | some g => failIf (!shard && (p == .compute || p == .exchange || p == .commitB)) 0x9002 (wordF 7) p.code g
  | none => none

/-- A command illegal in the present part, rejected under R231. -/
def State.chkLegal (s : State) (cmd : Cmd) : Chk := firstChk [chkPlace s.job.part cmd, s.chkPers s.job.part cmd]

/-- The operands whose place the command's own fields fix: all but those that depend on a program block, a scale
estimate or an index array. -/
def fixedOps (rd : Reader) (cmd : Cmd) : List Opnd :=
  match cmd with
  | .vprog _ => []
  | .qnt _ => (computeOps rd cmd).filter (fun o => o.f != wordF 9)
  | .lra c => [⟨wordF 12, c.iaddr.toNat, 2 * c.m, true, false⟩, ⟨wordF 8, c.daddr.toNat, 1, true, false⟩,
      ⟨wordF 10, c.uaddr.toNat, 1, true, false⟩]
      ++ (if (tfOr c.dfb).sk = .none then [] else [(⟨wordF 9, c.dsaddr.toNat, 1, true, false⟩ : Opnd)])
      ++ (if (tfOr c.ufb).sk = .none then [] else [(⟨wordF 11, c.usaddr.toNat, 1, true, false⟩ : Opnd)])
  | _ => computeOps rd cmd

/-- The planes of X of an LRA that leave the scratchpad, 0x2010 (R312). Log entry 36: DEDUCED. -/
def chkX (cmd : Cmd) : Chk :=
  match cmd with
  | .lra c => firstChk ((planeOps (lraX c (tfOr c.xfb)) c.m (wordF 6) (wordF 7) true false).map (fun o =>
      badIf (coreBad o.addr o.size true) o.f))
  | _ => none

/-- The checks that a command's own fields and the commands in flight decide, at planned issue beat `p` (R180, R200,
R215). Log entry 10: DEDUCED. -/
def State.chkDispatch (s : State) (idx : Nat) (cmd : Cmd) (p : Nat) : Chk :=
  let own := s.logical cmd.hdr.lcore.toNat
  let mv := match cmd with | .move _ => true | _ => false
  let prog := match cmd with | .vprog _ => true | _ => false
  firstChk [
    failIf (decide (p < s.job.lastPlanned)) 0x2001 (wordF 1) p,
    s.chkHeader cmd,
    s.chkBody idx cmd,
    chkX cmd,
    chkOps (fixedOps (s.reader idx own) cmd),
    chkSides mv (s.worded cmd),
    if prog then none else s.chkLong idx own cmd,
    s.chkAlloc cmd p]

/-! ### From data and tables -/

/-- The faults of a VPROG's program block and of the fields that depend on it (R88 to R92, R102 to
R105, R109, R120). -/
def State.chkProg (s : State) (own : Nat) (c : VprogCmd) (b : ProgBlock) : Chk :=
  let pf := wordF 3
  let soft := b.form = 1
  let ins := (List.range (b.nin + 1)).map (fun i => c.ins.getD i c.i0)
  let outs := (List.range b.nout).map (fun i => c.outs.getD i c.o0)
  let inF := fun i => fieldAt (13 + 3 * i) 31 24
  let outF := fun i => fieldAt (24 + 2 * i) 31 24
  let usesRnd := b.instrs.any (fun w =>
    let i := VInstr.ofNat w
    match opArity i.opc with
    | none => false
    | some n => (decide (0 < n) && i.sa == 0x26) || (decide (1 < n) && i.sb == 0x26) || (decide (2 < n) && i.sc == 0x26))
  firstChk [
    badIf (decide (1 < b.form) || b.res28 != 0 || b.res11 != 0 || b.res1 != 0 || b.res3 != 0) pf,
    badIf (b.nout == 0 || b.nout == 3 || (soft && b.nout != 1)) pf,
    badIf (decide (64 < b.ninstr) || (!soft && b.ninstr == 0)) pf,
    badIf (b.instrs.any (fun w => !(VInstr.ofNat w).legal (b.nin + 1) b.w16)) pf,
    badIf (b.lutgen != (s.core own).lutGen) pf,
    firstChk (ins.mapIdx (fun i x => firstChk [
      badIf (match tfOf x.fb with
        | none => true
        | some t => b.w16 && (t.fmt != .bf16 || t.sk != .none)) (inF i),
      badIf (texpBad x.fb x.texp) (fieldAt (13 + 3 * i) 23 16),
      badIf (b.w16 && x.bcast != 0 && x.bcast != 3) (fieldAt (13 + 3 * i) 15 14)])),
    firstChk (outs.mapIdx (fun i x => badIf (match tfOf x.fb with
      | none => true
      | some t => t.sk != .none || decide (t.fmt.width < 8) || (b.w16 && t.fmt != .bf16)
          || (soft && decide (t.fmt.width < 16))) (outF i))),
    badIf (!soft && c.msrc != 0) (fieldAt 8 31 30),
    badIf (c.msrc != 1 && c.maddr != 0) (wordF 9),
    badIf (c.msrc != 2 && c.moff != 0) (wordF 10),
    firstChk ((List.range 4).map (fun i =>
      badIf (decide (b.nin < i) && c.ins.getD i c.i0 != ⟨0, 0, 0, 0, 0⟩) (wordF (11 + 3 * i)))),
    badIf (decide (b.nout < 2) && c.o1 != ⟨0, 0, false, false⟩) (wordF 25),
    badIf (usesRnd && outs.any (fun o => o.rmode && c.srstream == b.rstream)) (wordF 7)]

/-- Whether two runs of bytes meet. -/
def meets (a n b m : Nat) : Bool := n != 0 && m != 0 && decide (a < b + m) && decide (b < a + n)

/-- Overlapping operands of a VPROG, 0x2007: an output may lie exactly on a full input of its format
and no other overlap is allowed (R103). -/
def chkOverlap (c : VprogCmd) (b : ProgBlock) : Chk :=
  let ins := (List.range (b.nin + 1)).map (fun i => c.ins.getD i c.i0)
  let outs := (List.range b.nout).map (fun i => c.outs.getD i c.o0)
  let osz := fun (o : OutSlot) => (rawPlane o.addr.toNat (tfOr o.fb).fmt c.cols).size c.rows
  let bad := fun (o : OutSlot) => ins.any (fun i =>
    let p := inPlane i (tfOr i.fb) c.rows c.cols
    let r := i.storedRows c.rows
    let same := i.bcast == 0 && i.addr == o.addr && (tfOr i.fb) == (tfOr o.fb)
    !same && (meets o.addr.toNat (osz o) p.addr (p.size r) || meets o.addr.toNat (osz o) p.saddr (p.ssize r)))
  firstChk [
    firstChk (outs.mapIdx (fun i o => failIf (bad o) 0x2007 (wordF (23 + 2 * i)) o.addr.toNat)),
    failIf (b.nout == 2 && meets c.o0.addr.toNat (osz c.o0) c.o1.addr.toNat (osz c.o1)) 0x2007 (wordF 25) c.o1.addr.toNat]

/-- The address field of an HBM side: reserved codes and bits (R293). -/
def chkKind (f : FieldRef) (a : Nat) : Chk :=
  badIf (aKind a == .bad || (aKind a != .phys && decide (2 ^ 40 ≤ aOff a))) f

/-- The Cast faults of the bytes accessed through an address field, whose last offset lies below `top` and
whose resolved runs are `rs`: range, write through CUR, Cast pages named physically, PERS (R293,
R295). Log entry 68: DEDUCED. -/
def State.chkCast (s : State) (f : FieldRef) (a : Nat) (wr : Bool) (top : Nat) (rs : List (Nat × Nat)) : Chk :=
  let np := s.cfg 0x0501
  let pages := rs.flatMap (fun r => pagesIn r.1 r.2)
  match aKind a with
  | .bad => none
  | .phys =>
    let hit := pages.find? (fun p =>
      let inC := fun b => b ≤ p && decide (p < b + np)
      inC (s.cfg 0x0502) || inC (s.cfg 0x0503) || p == s.cfg 0x0504 || p == s.cfg 0x0505)
    match hit with
    | some p => some (0x2036, f, a, p)
    | none => none
  | k => firstChk [
      failIf (decide (np * pageSize < top)) 0x2033 f a (pageOf (aOff a)),
      failIf (k == .cur && wr) 0x2037 f a,
      match pages.find? (fun p => !s.attr p 13) with
      | some p => some (0x2038, f, a, p)
      | none => none]

/-- The alias and Cast faults of one HBM side (R293, R295). Log entry 68: DEDUCED. -/
def State.chkAlias (s : State) (x : Side) : Chk :=
  firstChk [chkKind x.f x.addr, s.chkCast x.f x.addr x.wr (aOff x.addr + x.span) (s.sideRuns x)]

/-- One access of R149 as (order, address, event, field). -/
def State.pageFault (s : State) (f : FieldRef) (wr : Bool) (a : Nat) : Option (Nat × Nat × Nat × FieldRef) :=
  let p := pageOf a
  if hbmEnd ≤ a then some (1, a, 0x2033, f)
  else if !s.attr p 15 then some (2, a, 0x2030, f)
  else if s.attr p 9 then some (3, a, 0x2032, f)
  else if wr && !s.attr p 14 then some (4, a, 0x2031, f)
  else none

/-- The reported page fault: lowest order, then lowest address; ARG0 is the address and ARG1 its page (R149, R176). -/
def lowFault : List (Nat × Nat × Nat × FieldRef) → Chk
  | [] => none
  | x :: xs =>
    let m := xs.foldl (fun b y => if y.1 < b.1 ∨ (y.1 = b.1 ∧ y.2.1 < b.2.1) then y else b) x
    some (m.2.2.1, m.2.2.2, m.2.1, pageOf m.2.1)

/-- The page checks of HBM runs (R149): each run's first address in each page. -/
def State.chkPages (s : State) (rs : List (FieldRef × Bool × Nat × Nat)) : Chk :=
  lowFault (rs.flatMap (fun r =>
    (pagesIn r.2.2.1 r.2.2.2).filterMap (fun p =>
      s.pageFault r.1 r.2.1 (max r.2.2.1 (p * pageSize)))))

/-- The indices of a GATH, as read at issue (R167, R168). Log entry 38: DEDUCED. -/
def gathIdx (rd : Reader) (c : GathCmd) : List Nat :=
  (List.range c.nidx).map (fun n => leNat rd (c.iaddr.toNat + 4 * n) 4)

/-- Row numbers that a GATH selects: none for a zero row; an adapter identifier goes through the
directory (R309). Log entry 38: DEDUCED. -/
def State.gathRow (s : State) (c : GathCmd) (v : Nat) : Option (Option Nat) :=
  if v = 0xFFFFFFFF then some none
  else if c.tgen = 0xFFFF then (if v < c.trows.toNat then some (some v) else none)
  else
    let e := sparse s.adt.cur v
    if v < 65536 && bitAt e 31 && decide (bits e 13 0 < c.trows.toNat) then some (some (bits e 13 0)) else none

/-- The checks of R200 that the tables in force and the data that the command reads decide: program blocks, generations,
index arrays, pages and Cast aliases (R92, R109, R149, R168, R170, R278, R293, R295, R311). A GATH's event carries in
ARG1 the offending index. Log entry 112: DEDUCED. Log entry 113: DESIGN CHOICE. -/
def State.chkIssue (s : State) (idx own : Nat) (cmd : Cmd) : Chk :=
  let rd := s.reader idx own
  let ops := computeOps rd cmd
  let xs := s.accessed idx own cmd
  let hbmRuns := fun (ys : List Side) => ys.flatMap (fun x =>
    if x.sp = 2 then (s.sideRuns x).map (fun r => (x.f, x.wr, r.1, r.2)) else [])
  match cmd with
  | .vprog c =>
    let b := readBlock rd c.paddr.toNat
    firstChk [
      failIf (coreBad c.paddr.toNat 80 true || coreBad c.paddr.toNat (80 + 4 * b.ninstr) true) 0x2006 (wordF 3) c.paddr.toNat,
      s.chkProg own c b, chkOps ops, chkOverlap c b, s.chkLong idx own cmd]
  | .qnt c =>
    let t := tfOr c.dfb
    let n := leNat rd c.seaddr.toNat 2
    let est := t.sk != .none && c.ssrc == 1
    firstChk [
      failIf (est && coreBad c.seaddr.toNat 16 true) 0x2006 (wordF 9) c.seaddr.toNat,
      badIf (est && n != 1 && n != groupsOf t c.cols) (wordF 9), chkOps ops]
  | .lra c =>
    let dEnd := fun sl => (lraD c (tfOr c.dfb) sl).addr + (lraD c (tfOr c.dfb) sl).size c.rank
    let dsEnd := fun sl => (lraD c (tfOr c.dfb) sl).saddr + (lraD c (tfOr c.dfb) sl).ssize c.rank
    let uEnd := fun sl => (lraU c (tfOr c.ufb) sl).addr + (lraU c (tfOr c.ufb) sl).size c.n
    let usEnd := fun sl => (lraU c (tfOr c.ufb) sl).saddr + (lraU c (tfOr c.ufb) sl).ssize c.n
    let scaled := fun (b : Byte) => (tfOr b).sk != .none
    let past := fun sl => decide (0x600000 < dEnd sl) || decide (0x600000 < uEnd sl)
      || (scaled c.dfb && decide (0x600000 < dsEnd sl)) || (scaled c.ufb && decide (0x600000 < usEnd sl))
    firstChk [
      badIf (c.tgen != 0xFFFF && c.tgen.toNat != s.adt.gen) (fieldAt 16 15 0),
      match (lraSlots rd c).find? (fun p => past p.2) with
      | some p => some (0x2039, wordF 12, p.1, p.2)
      | none => none]
  | .gath c =>
    let is := gathIdx rd c
    let rows := is.map (s.gathRow c)
    let runs := rows.filterMap (fun r => match r with
      | some (some v) => some (aOff c.tbase.toNat + v * c.tstride.toNat)
      | _ => none)
    let rs := runs.flatMap (fun a => s.resolveRun (aKind c.tbase.toNat) a c.rbytes.toNat)
    firstChk [
      badIf (c.tgen != 0xFFFF && c.tgen.toNat != s.adt.gen) (fieldAt 6 15 0),
      chkKind (wordF 7) c.tbase.toNat,
      match rows.findIdx? (fun r => r.isNone) with
      | some n => some (0x2035, wordF 3, n, is.getD n 0)
      | none => none,
      s.chkCast (wordF 7) c.tbase.toNat false (runs.foldl (fun m a => max m (a + c.rbytes.toNat)) 0) rs,
      s.chkPages (rs.map (fun r => (wordF 7, false, r.1, r.2)))]
  | .move _ | .dig _ | .coll _ =>
    firstChk [
      match cmd with | .move _ => chkSides true xs | _ => none,
      firstChk (xs.map (fun x => if x.sp = 2 then s.chkAlias x else none)),
      firstChk (xs.map (fun x => badIf (x.sp == 4 && x.ext.psp == false && aKind x.addr != .phys) x.f)),
      s.chkPages (hbmRuns xs)]
  | _ => none

end Sys2Proof.Machine
end

