-- ==== Sys2Proof/Machine/Movement.lean ====
section
/-! DEFINITION. The effects of commands as values: what a command reads, and the bytes, flags and
result it delivers (R60 to R136, R157, R167, R171 to R174, R218, R331 to R334). -/
namespace Sys2Proof.Machine

/-- What a command does when it completes. -/
structure Eff where
  writes : List Wr
  flags : FlagWord
  fm : Nat
  aux : Nat
  deriving DecidableEq, Repr

/-- No effect. -/
def Eff.none : Eff := ⟨[], 0, 0, 0⟩

/-- Writes to one core. -/
def Eff.ofCore (c : Nat) (e : CoreEff) : Eff :=
  ⟨e.writes.map (fun w => ⟨.core c, w.1, w.2⟩), e.flags, e.fm, 0⟩

/-! ### Compute commands -/

/-- A lookup table of the generation in force as a VPROG reads it (R97, R108). -/
def Core.lutAt (k : Core) (t i : Nat) : Nat := leOf (k.lutCur.read (1024 * t + 4 * i) 4)

/-- The effect of a compute command (R60, R80, R86, R124, R130, R136, R311) with the values that R192
gives its operands. -/
def State.computeEff (s : State) (idx own : Nat) (cmd : Cmd) : Eff :=
  let rd := s.reader idx own
  match cmd with
  | .mma c =>
    Eff.ofCore own (mmaEff rd (s.drawKey c.srstream c.chain.toNat) c (tfOr c.afb) (tfOr c.bfb) (ppb c.afb c.bfb))
  | .mew c => Eff.ofCore own (mewEff rd (s.drawKey c.srstream idx) c (tfOr c.afb) (tfOr c.bfb))
  | .lra c =>
    Eff.ofCore own (lraEff rd (s.drawKey c.srstream idx) c (tfOr c.xfb) (tfOr c.dfb) (tfOr c.ufb) (ppb c.xfb c.dfb))
  | .vprog c =>
    let b := readBlock rd c.paddr.toNat
    let x : VCtx := ⟨c, b, (c.ins.take (b.nin + 1)).map (fun i => tfOr i.fb),
      (c.outs.take b.nout).map (fun o => tfOr o.fb), s.drawKey c.srstream idx, s.drawKey b.rstream idx⟩
    Eff.ofCore own (vprogEff rd (s.core own).lutAt x)
  | .qnt c => Eff.ofCore own (qntEff rd ⟨c, fmtOr c.sfmt, tfOr c.dfb, s.drawKey c.srstream idx⟩)
  | .dqt c => Eff.ofCore own (dqtEff rd ⟨c, tfOr c.sfb, fmtOr c.dfmt, s.drawKey c.srstream idx⟩)
  | .vred c => Eff.ofCore own (vredEff rd c (tfOr c.sfb) (fmtOr c.dfmt))
  | _ => Eff.none

/-! ### Regions -/

/-- Bytes a command reads at a place of the module. -/
def State.readAt (s : State) (idx : Nat) (l : Loc) (a n : Nat) : List Byte :=
  match l with
  | .core c => if 0x600000 ≤ a then readList (s.reader idx c) a n else s.view idx l a n
  | _ => s.view idx l a n

/-- The bytes of a side in source order, row by row (R159). -/
def State.readSide (s : State) (idx own : Nat) (x : Side) : List Byte :=
  let l := s.spaceLoc own x.sp x.ext
  (s.sideRuns x).flatMap (fun r => s.readAt idx l r.1 r.2)

/-- A run of bytes placed at a side's place: the lookup-table store aperture reaches generation g + 1
(R108). -/
def wrAt (l : Loc) (a : Nat) (bs : List Byte) : Wr :=
  match l with
  | .core c => if 0x620000 ≤ a then ⟨.lut c, a - 0x620000, bs⟩ else ⟨l, a, bs⟩
  | _ => ⟨l, a, bs⟩

/-- Bytes cut over resolved runs. -/
def cutRuns (l : Loc) : List (Nat × Nat) → List Byte → List Wr
  | [], _ => []
  | r :: rs, bs => wrAt l r.1 (bs.take r.2) :: cutRuns l rs (bs.drop r.2)

/-- The writes of a side that receives `bs` row after row. -/
def State.writeSide (s : State) (own : Nat) (x : Side) (bs : List Byte) : List Wr :=
  cutRuns (s.spaceLoc own x.sp x.ext) (s.sideRuns x) bs

/-- Whether a side's data comes from outside the module. -/
def Side.outside (x : Side) : Bool := x.sp == 3 || x.sp == 4

/-! ### MOVE -/

/-- The format that a PACK's element size names: of the two 16-bit formats the spec gives the command
no field to choose by, so the choice is free (log entry 11: DESIGN CHOICE). -/
def packFmt (e : BitVec 2) (idx : Nat) : Fmt :=
  if e = 2 then .fp32 else if Config.packFp16 idx then .fp16 else .bf16

/-- Rows of `n` bytes each. Log entry 12: DESIGN CHOICE. -/
def rowsOf (n : Nat) : Nat → List Byte → List (List Byte)
  | 0, _ => []
  | k + 1, bs => bs.take n :: rowsOf n k (bs.drop n)

/-- The uncompressed bytes of a packed stream, or free bytes where its header names no format PACK
writes or fewer elements than the destination takes (log entry 12: DESIGN CHOICE). Log entry 40: DEDUCED. -/
def unpackBytes (free : Nat) (e : BitVec 2) (n : Nat) (src : List Byte) : List Byte :=
  let rd : Reader := fun a => src.getD a 0
  let es := esizeOf e
  match packFmtOf (leNat rd 0 4) with
  | some f =>
    if f.width = 8 * es ∧ n / es ≤ leNat rd 4 4 then
      (List.range (n / es)).flatMap (fun i => leBytes es (unpackElem rd 0 f i))
    else (List.range n).map (fun i => Config.freeByte (free + i))
  | none => (List.range n).map (fun i => Config.freeByte (free + i))

/-- The bytes a MOVE delivers to its destination in destination order, from its source bytes, with
the packed length (R157, R234). -/
def moveBytes (free idx : Nat) (c : MoveCmd) (src : List Byte) : List Byte × Nat :=
  let n := c.rows * c.rowbytes.toNat
  match c.form.toNat with
  | 1 =>
    let es := esizeOf c.esize
    ((transposeRows es (rowsOf c.rowbytes.toNat c.rows src) (c.rowbytes.toNat / es)).flatten, 0)
  | 2 => ((List.replicate (n / 4) (leBytes 4 c.pattern.toNat)).flatten, 0)
  | 3 =>
    let f := packFmt c.esize idx
    let bs := packStream f (codesOf (esizeOf c.esize) (n + 1) src)
    (bs, bs.length)
  | 4 => (unpackBytes free c.esize n src, 0)
  | _ => (src, 0)

/-- The runs of bytes that a command's destination resolves to now (R294). -/
def State.dstRuns (s : State) (cmd : Cmd) : List (Nat × Nat) :=
  match (s.sides cmd).getLast? with
  | some d => if d.wr then s.sideRuns d else []
  | none => []

/-- The writes of a MOVE that delivers `bs` to the runs of its destination, as far as they reach. -/
def State.writesInto (s : State) (own : Nat) (c : MoveCmd) (runs : List (Nat × Nat)) (bs : List Byte) : List Wr :=
  (cutRuns (s.spaceLoc own c.dspace.toNat c.dext) runs bs).filter (fun w => !w.bytes.isEmpty)

/-- The effect of a MOVE from its source bytes, `runs` being what its destination resolves to. A PACK's source from
outside arrives packed (R175). Log entry 40: DEDUCED. Log entry 137: DEDUCED. -/
def State.moveInto (s : State) (idx own : Nat) (c : MoveCmd) (runs : List (Nat × Nat)) (outside : Bool) (src : List Byte) : Eff :=
  let (bs, len) := if outside && c.form == 3 then (src.take (packedLen src), packedLen src) else moveBytes s.free idx c src
  ⟨s.writesInto own c runs bs, 0, 0, if c.form = 4 then packedLen src else len⟩

/-- The effect of a MOVE within the module at its issue. Log entry 40: DEDUCED. -/
def State.moveEff (s : State) (idx own : Nat) (c : MoveCmd) (src : List Byte) : Eff :=
  s.moveInto idx own c (s.dstRuns (.move c)) false src

/-- The source bytes of a MOVE inside the module. -/
def State.moveSrc (s : State) (idx own : Nat) (c : MoveCmd) : List Byte :=
  match s.sides (.move c) with
  | [src, _] => s.readSide idx own src
  | _ => []

/-! ### GATH and DIG -/

/-- The effect of a GATH (R167). -/
def State.gathEff (s : State) (idx own : Nat) (c : GathCmd) : Eff :=
  let rd := s.reader idx own
  let k := aKind c.tbase.toNat
  let row := fun v =>
    match s.gathRow c v with
    | some (some r) =>
      (s.resolveRun k (aOff c.tbase.toNat + r * c.tstride.toNat) c.rbytes.toNat).flatMap (fun q => s.readAt idx .hbm q.1 q.2)
    | _ => List.replicate c.rbytes.toNat 0
  ⟨(gathIdx rd c).mapIdx (fun n v => wrAt (.core own) (c.daddr.toNat + n * c.dpitch.toNat) (row v)), 0, 0, 0⟩

/-- PD61 of bytes at the job's DIGKEY. -/
def State.pd (s : State) (bs : List Byte) : Nat := pd61 s.job.desc.digkey.toNat bs

/-- The effect of a DIG from the bytes of its region (R218). -/
def State.digEff (s : State) (own : Nat) (c : DigCmd) (src : List Byte) : Eff :=
  let d := s.pd src
  ⟨if c.raddr = 0xFFFFFFFF then [] else [wrAt (.core own) c.raddr.toNat (leBytes 8 d)], 0, 0, d⟩

/-- The HBM lines that a command reads: of a GATH those of the rows it gathers, of an UNPACK those of its stream. -/
def State.linesTaken (s : State) (idx own : Nat) (cmd : Cmd) : List (Nat × Nat) :=
  match cmd with
  | .gath c =>
    ((gathIdx (s.reader idx own) c).filterMap (fun v => (s.gathRow c v).join)).flatMap (fun r =>
      (s.resolveRun (aKind c.tbase.toNat) (aOff c.tbase.toNat + r * c.tstride.toNat) c.rbytes.toNat).map linesOf)
  | _ => ((s.accessed idx own cmd).filter (fun x => !x.wr && x.sp == 2)).flatMap (fun x => (s.sideRuns x).map linesOf)

/-! ### COLL -/

/-- The contribution of a rank: the bytes at its source (R331); nothing from a BROADCAST member other
than position 0. -/
def State.contribution (s : State) (idx own : Nat) (c : CollCmd) : List Byte :=
  match s.sides (.coll c) with
  | [src, _] => s.readSide idx own src
  | _ => []

/-- The finite flag of a contribution (R334). -/
def finFlag (f : Fmt) (n : Nat) (bs : List Byte) : Bool :=
  let rd : Reader := fun a => bs.getD a 0
  (List.range n).any (fun i => (decodeElem f (elemCode rd f 0 i)).nonfinite)

/-- Segment length L in elements (R332). -/
def segLen (cnt n w : Nat) : Nat := ceilDiv cnt (n * (512 / w)) * (512 / w)

/-- First element and length of segment `q` (R332). -/
def segOf (cnt n w q : Nat) : Nat × Nat :=
  let l := segLen cnt n w
  (min (q * l) cnt, min ((q + 1) * l) cnt - min (q * l) cnt)

/-- The reduction of one element over positions in rank order (R333). -/
def collElem (f : Fmt) (max : Bool) (vs : List Val) : Nat × FlagWord :=
  let node := if max then nodeMax else nodeAdd
  match treeFold node 16 (vs.map (fun v => some (v, (0 : FlagWord)))) with
  | some (v, fl) =>
    let (code, g) := store f .rne true v
    (code, fl ||| g)
  | none => (0, 0)

/-- A segment reduced from every position's bytes of it (R333). -/
def reduceSeg (f : Fmt) (max : Bool) (n : Nat) (parts : List (List Byte)) : List Byte × FlagWord :=
  let rs := (List.range n).map (fun i =>
    collElem f max (parts.map (fun p => decodeElem f (elemCode (fun a => p.getD a 0) f 0 i))))
  (packCodes f (rs.map (·.1)), rs.foldl (fun g r => g ||| r.2) 0)

/-- The writes of a COLL that delivers `bs` to the runs of its destination. -/
def State.collInto (s : State) (own : Nat) (c : CollCmd) (runs : List (Nat × Nat)) (bs : List Byte) : List Wr :=
  (cutRuns (s.spaceLoc own c.dspace.toNat Ext.zero) runs bs).filter (fun w => !w.bytes.isEmpty)

/-- The writes of a COLL at what its destination resolves to now. -/
def State.collWrites (s : State) (own : Nat) (c : CollCmd) (bs : List Byte) : List Wr :=
  s.collInto own c (s.dstRuns (.coll c)) bs

/-- A COLL of one member (R335). -/
def State.collAlone (s : State) (own : Nat) (c : CollCmd) (bs : List Byte) : Eff :=
  let f := (tfOr c.fb).fmt
  if c.cop.toNat ≤ 2 then
    let r := reduceSeg f (c.cop == 1) c.count.toNat [bs]
    ⟨s.collWrites own c r.1, r.2, 0, 0⟩
  else ⟨s.collWrites own c bs, 0, 0, 0⟩

/-! ### What a command in flight may have written -/

/-- The outcome of the DECIDE of a command's step (R230). -/
def State.skipOf (s : State) (idx : Nat) : Bool :=
  ((stepOf s.job.steps idx).bind (fun p => s.job.skips.lookup p.2)).getD s.job.dec.skip

/-- Writes that R230 discards: to a page with PERS = 1, of a COMMIT-phase command that is no shard load,
in a step whose outcome is SKIP. -/
def State.kept (s : State) (f : Flight) (ws : List Wr) : List Wr :=
  let shard := match f.cmd with | .move c => c.shard | _ => false
  if s.skipOf f.idx && (f.part == .commitA || f.part == .commitB) && !shard then
    ws.filter (fun w => !(w.loc == .hbm && s.attr (pageOf w.addr) 13))
  else ws

/-- Whether a command's data comes from outside the module. -/
def State.fromOutside (s : State) (cmd : Cmd) : Bool :=
  match cmd with
  | .move _ | .dig _ => (s.sides cmd).any (fun x => !x.wr && x.outside)
  | _ => false

/-- Space code of the side that a command reads from outside, if it does. -/
def State.fromSpace (s : State) (f : Flight) : Nat :=
  (((s.sides f.cmd).find? (fun x => !x.wr && x.outside)).map (fun x => x.sp)).getD 0

/-! ### Keys of a flight's notes -/

/-- Fetches of a whole shard so far (R304). -/
def fetchKey : Nat := 2 ^ 32 + 1
/-- Why a shard failed (R304). -/
def reasonKey : Nat := 2 ^ 32 + 2
/-- The event with which the command's retirement stops the job. -/
def faultKey : Nat := 2 ^ 32 + 3

/-- A note of a flight. -/
def Flight.note (f : Flight) (k : Nat) : Option Nat := f.tries.lookup k

/-- Sets a note. -/
def Flight.mark (f : Flight) (k v : Nat) : Flight := { f with tries := put f.tries k v }

/-! ### Data from outside -/

/-- Bytes of the source region of a command. -/
def State.srcLen (s : State) (f : Flight) : Nat :=
  ((s.sides f.cmd).filter (fun x => !x.wr)).foldl (fun n x => n + x.bytes) 0

/-- Length of chunk `k` of `n` bytes. -/
def chunkLen (n k : Nat) : Nat := min 65536 (n - 65536 * k)

/-- The bytes that a command's chunks count: those of the packed stream of a PACK or UNPACK, which is at most as
long as R174 says until its source is here (R159, R175). -/
def State.chunkedLen (s : State) (f : Flight) : Nat :=
  match f.cmd with
  | .move c =>
    if c.form.toNat < 3 then s.srcLen f
    else if f.need = 0 then f.aux.toNat
    else packBound c.esize (c.rows * c.rowbytes.toNat)
  | _ => s.srcLen f

/-- The chunks of a command: a GATH has one for each row (R169). -/
def State.chunkCount (s : State) (f : Flight) : Nat :=
  match f.cmd with
  | .gath c => c.nidx
  | _ => ceilDiv (s.chunkedLen f) 65536

/-- The length of one chunk of a command. -/
def State.chunkSize (s : State) (f : Flight) (k : Nat) : Nat :=
  match f.cmd with
  | .gath c => c.rbytes.toNat
  | _ => chunkLen (s.chunkedLen f) k

/-- Whether `n` bytes may be chunk `k` of a command: the last of a packed stream from outside ends with the stream. -/
def State.chunkFits (s : State) (f : Flight) (k n : Nat) : Bool :=
  let packed : Bool := match f.cmd with | .move c => decide (3 ≤ c.form.toNat) && f.need != 0 | _ => false
  if packed then decide (1 ≤ n ∧ n ≤ s.chunkSize f k) else n == s.chunkSize f k

/-- The source bytes, zero where a chunk is dead. -/
def State.srcBytes (s : State) (f : Flight) : List Byte :=
  (List.range f.need).flatMap (fun k => (f.got.lookup k).getD (List.replicate (chunkLen (s.chunkedLen f) k) 0))

/-- 1 for every source byte that arrived. -/
def State.srcMask (s : State) (f : Flight) : List Byte :=
  (List.range f.need).flatMap (fun k =>
    List.replicate (chunkLen (s.chunkedLen f) k) (if (f.got.lookup k).isSome then (1 : Byte) else 0))

/-- Whether everything a command waits for has arrived or is dead. A packed stream ends where its directory says. -/
def State.arrived (s : State) (f : Flight) : Bool :=
  let have_ := fun (k : Nat) => (f.got.lookup k).isSome || decide (k ∈ f.dead)
  let full := (List.range f.need).all have_
  match f.cmd with
  | .move c =>
    if 3 ≤ c.form.toNat then
      let k := ((List.range f.need).takeWhile have_).length
      let bs := (s.srcBytes f).take (65536 * k)
      full || (decide (64 ≤ bs.length) && decide (64 + 4 * leNat (fun a => bs.getD a 0) 8 4 ≤ bs.length) && decide (packedLen bs ≤ bs.length))
    else full
  | _ => full

/-- Keys from which a flight notes the chunks that have come within the module. -/
def hereKey : Nat := 2 ^ 34

/-- The chunks within the module whose delivery has failed and whose resend is under way (R161). -/
def Flight.owing (f : Flight) : List Nat :=
  (f.tries.map (fun p => p.1)).filter (fun k => decide (k < 2 ^ 32) && (f.got.lookup (hereKey + k)).isNone && !decide (k ∈ f.dead))

/-- Where the packed source of an UNPACK is kept from its issue. -/
def srcKey : Nat := 2 ^ 32

/-- The bytes of a stream that element `i` is read from, as runs: header, directory entry, block header, planes
(R173, R174). -/
def unpackRuns (rd : Reader) (f : Fmt) (i : Nat) : List (Nat × Nat) :=
  let blk := leNat rd (64 + 4 * (i / 256)) 4
  let w := bits (leNat rd blk 4) 11 8
  let run := fun (a b n : Nat) => (a + b / 8, ceilDiv (b % 8 + n) 8)
  [(0, 12), (64 + 4 * (i / 256), 4), (blk, 4), run (blk + 4) (i % 256 * (1 + f.mbits)) (1 + f.mbits),
   run (blk + 4 + smBytes f) (i % 256 * w) w]

/-- 1 for every byte of `n` that an UNPACK delivers from bytes of its stream whose mask is 1. -/
def unpackMask (e : BitVec 2) (n : Nat) (src mask : List Byte) : List Byte :=
  let rd : Reader := fun a => src.getD a 0
  let live := fun (r : Nat × Nat) => (List.range r.2).all (fun i => mask.getD (r.1 + i) 0 != 0)
  match packFmtOf (leNat rd 0 4) with
  | some f =>
    (List.range (n / esizeOf e)).flatMap (fun i =>
      List.replicate (esizeOf e) (if (unpackRuns rd f i).all live then (1 : Byte) else 0))
  | none => List.replicate n (if live (0, 12) then (1 : Byte) else 0)

/-- 1 for every byte that a MOVE delivers from source bytes whose mask is 1. -/
def moveMask (free idx : Nat) (c : MoveCmd) (src mask : List Byte) : List Byte :=
  match c.form.toNat with
  | 3 => mask
  | 4 => unpackMask c.esize (c.rows * c.rowbytes.toNat) src mask
  | _ => (moveBytes free idx c mask).1

/-- Each byte of `ws` keeps its value where its mask byte is 0, else keeps it or takes the new one
(R161). -/
def State.mixMasked (s : State) (w m : Wr) : State :=
  let old := s.raw w.loc w.addr w.bytes.length
  let new := (w.bytes.zip (old.zip m.bytes)).mapIdx (fun i p => if p.2.2 != 0 && Config.freeBit (s.free + i) then p.1 else p.2.1)
  { s.store { w with bytes := new } with free := s.free + w.bytes.length }

/-- A MOVE whose data came from outside: its effect at the places resolved at its issue, or with a dead or refused
chunk the mixture that R161 allows, in which a byte that comes from that chunk keeps its value. -/
def State.moveArrived (s : State) (f : Flight) (c : MoveCmd) : State × Flight :=
  let own := f.core.getD 0
  let src := s.srcBytes f
  let e := s.moveInto f.idx own c f.dst true src
  let bad := !f.dead.isEmpty || (f.note reasonKey).isSome || (f.note faultKey).isSome
  if !bad then (s, { f with eff := s.kept f e.writes, aux := BitVec.ofNat 64 e.aux })
  else
    let m := s.writesInto own c f.dst (moveMask s.free f.idx c src (s.srcMask f))
    (((s.kept f e.writes).zip (s.kept f m)).foldl (fun t p => t.mixMasked p.1 p.2) s, { f with eff := [] })

/-- The writes that a command in flight may have made when it is abandoned (R222): those known at its issue, and
free bytes at the places where data from outside or from other members would have gone. What went to a peer has
left. -/
def State.couldWrite (s : State) (f : Flight) : List Wr × State :=
  let own := f.core.getD 0
  let (ws, t) := match f.cmd with
    | .move c =>
      if s.fromOutside f.cmd then let (bs, t) := s.bytes (s.srcLen f); (s.kept f (s.moveInto f.idx own c f.dst false bs).writes, t) else (f.eff, s)
    | .dig c =>
      if s.fromOutside f.cmd && c.raddr != 0xFFFFFFFF then let (bs, t) := s.bytes 8; ([wrAt (.core own) c.raddr.toNat bs], t) else (f.eff, s)
    | .coll c =>
      if decide (1 < ((s.members c.group.toNat).getD []).length) && !bitAt s.job.rplCtl.toNat 2 then
        let (bs, t) := s.bytes ((((s.sides f.cmd).getLast?).map Side.bytes).getD 0)
        (s.kept f (s.collInto own c f.dst bs), t)
      else (f.eff, s)
    | _ => (f.eff, s)
  (ws.filter (fun w => match w.loc with | .peer _ _ => false | _ => true), t)

/-- Every command in flight is abandoned (R222): no completion record, its bytes mixed. -/
def State.abandon (s : State) : State :=
  let t := (s.job.flights.filter (fun f => f.issued)).foldl (fun t f =>
    let (ws, u) := t.couldWrite f
    ws.foldl State.mixStore u) s
  { t with job := { t.job with flights := [], disp := [], stop := none, pausePend := false } }

end Sys2Proof.Machine
end

