-- ==== Sys2Proof/Machine/Journal.lean ====
section
/-! DEFINITION. The step journal (R248 to R254, R544), its comparison with a reference (R257, R258) and table
digests. -/
namespace Sys2Proof.Machine

/-! ### Digests of tables -/

/-- `n` zero halves as an affine map of the digest: h becomes A × h + B. `fuel` bounds the bits of
`n`. -/
def pdZeros (a b : Nat) : Nat → Nat → Nat × Nat
  | 0, _ => (1, 0)
  | fuel + 1, n =>
    if n = 0 then (1, 0)
    else
      let (x, y) := pdZeros (a * a % p61) ((a * b + b) % p61) fuel (n / 2)
      if n % 2 = 1 then (x * a % p61, (x * b + y) % p61) else (x, y)

/-- PD61 of `total` halves of which only the listed ones, in ascending order, are not zero. -/
def pdSparse (k : Nat) : Nat → Nat → Nat → List (Nat × Nat) → Nat
  | h, pos, total, [] =>
    let (a, b) := pdZeros k k 64 (total - pos)
    (a * h + b) % p61
  | h, pos, total, (i, x) :: r =>
    let (a, b) := pdZeros k k 64 (i - pos)
    pdSparse k (pdStep k ((a * h + b) % p61) x) (i + 1) total r

/-- Adds to an entry of an ascending list of (index, value) pairs. -/
def addAt (i v : Nat) : List (Nat × Nat) → List (Nat × Nat)
  | [] => [(i, v)]
  | (j, w) :: r => if i < j then (i, v) :: (j, w) :: r else if i = j then (j, w + v) :: r else (j, w) :: addAt i v r

/-- Puts `v` at index `i` of a sparse list in ascending order, in place of what stood there. -/
def putAt (i v : Nat) : List (Nat × Nat) → List (Nat × Nat)
  | [] => [(i, v)]
  | (j, w) :: r => if i < j then (i, v) :: (j, w) :: r else if i = j then (j, v) :: r else (j, w) :: putAt i v r

/-- The digest of a page attribute table, WP and DRN read as zero (R544). -/
def patDigest (k : Nat) (t : List (Nat × Nat)) : Nat :=
  pdSparse k 0 0 (nPages / 2)
    (t.foldr (fun p l => addAt (p.1 / 2) (if p.1 % 2 = 0 then p.2 else 65536 * p.2) l) [])

/-- The digest of an adapter directory (R544). -/
def adtDigest (k : Nat) (t : List (Nat × Nat)) : Nat :=
  pdSparse k 0 0 65536 (t.foldr (fun p l => addAt p.1 p.2 l) [])

/-- The remap-table digest (R494). -/
def State.remapDigest (s : State) : Nat :=
  leOf ((sha384 (s.remap.cur.flatMap (fun e => leBytes 2 e.toNat))).take 8)

/-- The key point of the job. -/
def State.key (s : State) : Nat := s.job.desc.digkey.toNat

/-- The logical cores that take commands in the job's class, as (named core, logical core). -/
def State.jobCores (s : State) : List (Nat × Nat) :=
  (List.range s.nActive).map (fun v => (v, s.logical v))

/-- Digest of a core's tables in force, table 0 then table 1 (R544). -/
def State.lutDigest (s : State) (l : Nat) : Nat := pd61 s.key ((s.core l).lutCur.read 0 0x800)

/-! ### Entries -/

/-- An entry that concerns no command. -/
def jEntry (etype argw : Nat) (arg dig : Nat) : JEntry :=
  ⟨etype, 0xFF, BitVec.ofNat 32 argw, noIdx, BitVec.ofNat 64 arg, BitVec.ofNat 64 dig⟩

/-- An entry of command `idx`. -/
def State.jCmd (s : State) (etype lcore argw idx arg dig : Nat) : JEntry :=
  ⟨etype, lcore, BitVec.ofNat 32 argw, BitVec.ofNat 64 (s.stepRel idx), BitVec.ofNat 64 arg, BitVec.ofNat 64 dig⟩

/-- Two entries stand at one place of a record (R251). Log entry 46: DEDUCED. -/
def samePlace (a b : JEntry) : Bool := a.etype == b.etype && a.lcore == b.lcore && a.argw == b.argw && a.ridx == b.ridx

/-- Whether a replay produces an entry after the same entries as before the reset: a host chunk's arrival and a switch of
the remap table come when they come. Log entry 46: DEDUCED. -/
def JEntry.inOrder (e : JEntry) : Bool := e.etype != 0x11 && e.etype != 0x1C

/-- The kept entry in the position of the newest one (R404): the n-th produced is compared with the n-th kept; an entry
that comes when it comes with the one of its place. Log entry 46: DEDUCED. -/
def State.keptFor (s : State) (e : JEntry) : Option JEntry :=
  if e.inOrder then (s.rcv.kept.filter JEntry.inOrder).reverse[(s.job.jrn.entries.filter JEntry.inOrder).length - 1]?
  else s.rcv.kept.find? (samePlace e)

/-- A replayed entry that differs from the one kept stops the job at its command (R404). Log entry 46: DEDUCED. -/
def State.checkKept (s : State) (e : JEntry) : State :=
  match s.rcv.replayTo, s.keptFor e with
  | some _, some k =>
    if k = e then s
    else
      let i := s.job.stepIdx + (if e.ridx = noIdx then 0 else e.ridx.toNat)
      let w := match s.job.step with | some n => (s.job.stepBase + BitVec.ofNat 32 n).toNat | none => 0xFFFFFFFF
      let t := (s.evCmd 0xA052 0xFF FieldRef.nil i w e.ridx.toNat).noteFault i 0xA052
      { t with job := { t.job with
          stop := some ⟨i, 0xA052⟩, disp := [], flights := t.job.flights.filter (fun f => decide (f.idx < i)) } }
  | _, _ => s

/-- Adds an entry to the step in progress. Log entry 27: DEDUCED. -/
def State.jAdd (s : State) (e : JEntry) : State :=
  ({ s with job := { s.job with jrn := { s.job.jrn with entries := e :: s.job.jrn.entries } } }).checkKept e

/-- Puts an entry in place of the one that stands at its place, as when a shard is fetched again (R304). -/
def State.jPut (s : State) (e : JEntry) : State :=
  ({ s with job := { s.job with jrn := { s.job.jrn with entries := s.job.jrn.entries.filter (fun x => !samePlace x e) } } }).jAdd e

/-- Order within a record (R251): no command first, then RIDX, ETYPE, ARGW, LCORE. -/
def entryLe (a b : JEntry) : Bool :=
  let key := fun (e : JEntry) =>
    [if e.ridx = noIdx then 0 else 1 + e.ridx.toNat, e.etype, e.argw.toNat, e.lcore]
  let rec lex : List Nat → List Nat → Bool
    | x :: xs, y :: ys => x < y || (x == y && lex xs ys)
    | _, _ => true
  lex (key a) (key b)

/-- Insertion in order. -/
def insEntry (e : JEntry) : List JEntry → List JEntry
  | [] => [e]
  | x :: xs => if entryLe x e then x :: insEntry e xs else e :: x :: xs

/-- The entries of a record in order. -/
def sortEntries (es : List JEntry) : List JEntry := es.foldl (fun l e => insEntry e l) []

/-- An entry's 32 bytes (R251). -/
def JEntry.bytes (e : JEntry) : List Byte :=
  leBytes 1 e.etype ++ [0] ++ leBytes 1 e.lcore ++ [0] ++ leBytes 4 e.argw.toNat ++ leBytes 8 e.ridx.toNat
    ++ leBytes 8 e.arg.toNat ++ leBytes 8 e.dig.toNat

/-! ### Records -/

/-- What a record's header says beside its entries (R250). -/
structure RecHdr where
  rtype : Nat
  cut : Bool
  cont : Bool
  stepw : Nat
  framelen : Nat
  ncmds : Nat
  cfirst : Nat
  drone : Nat
  deriving DecidableEq, Repr

/-- A record's bytes with its RECDIG (R250). -/
def recBytes (k : Nat) (h : RecHdr) (seq : Nat) (prev : Nat) (es : List JEntry) : List Byte × Nat :=
  let n := es.length
  let len := up64 (64 + 32 * n)
  let pre := leBytes 1 h.rtype ++ leBytes 1 ((if h.cut then 128 else 0) + (if h.cont then 64 else 0) + 1)
    ++ leBytes 2 n ++ leBytes 4 len ++ leBytes 8 seq ++ leBytes 4 h.stepw ++ leBytes 4 h.framelen
    ++ leBytes 8 h.ncmds ++ leBytes 8 h.cfirst ++ leBytes 8 h.drone ++ leBytes 8 prev
  let body := es.flatMap JEntry.bytes
  let pad := List.replicate (len - 64 - 32 * n) 0
  let dig := pd61 k (pre ++ leBytes 8 0 ++ body ++ pad)
  (pre ++ leBytes 8 dig ++ body ++ pad, dig)

/-- Ring bytes and units (R248). -/
def State.jrnLen (s : State) : Nat := s.job.desc.jrnpages * pageSize

/-- Units of the ring. -/
def State.jrnUnits (s : State) : Nat := s.jrnLen / 64

/-- The most entries of one record (R254). -/
def State.jrnMax (s : State) : Nat := min 65535 (s.jrnLen / 32 - 4)

/-- Cuts entries into records of at most `m`; `fuel` bounds them. -/
def cutEntries (m : Nat) : Nat → List JEntry → List (List JEntry)
  | 0, es => [es]
  | fuel + 1, es => if es.length ≤ m then [es] else es.take m :: cutEntries m fuel (es.drop m)

/-- Appends records to those that wait for room. -/
def State.pushRecs (s : State) (h : RecHdr) (parts : List (List JEntry)) : State :=
  let n := parts.length
  let step := fun (acc : State × Nat) (es : List JEntry) =>
    let t := acc.1
    let j := t.job.jrn
    let (bs, d) := recBytes t.key { h with cont := decide (acc.2 + 1 < n) } j.seq j.prevDig.toNat es
    ({ t with job := { t.job with jrn := { j with
        waiting := j.waiting ++ [bs], seq := j.seq + 1, prevDig := BitVec.ofNat 64 d } } }, acc.2 + 1)
  (parts.foldl step (s, 0)).1

/-- Whether the ring has room for a record (R249). -/
def State.jrnRoom (s : State) (len : Nat) : Bool :=
  let n := s.jrnUnits
  let j := s.job.jrn
  decide (len < 64 * (n - (j.head + n - j.tail % n) % n))

/-- Bytes of a record placed in the ring from unit `head`, wrapping at its end (R248). -/
def State.jrnWrites (s : State) (head : Nat) (bs : List Byte) : List Wr :=
  let base := s.job.desc.jrnaddr
  let at_ := 64 * head
  let k := s.jrnLen - at_
  ⟨.hbm, base + at_, bs.take k⟩ :: (if k < bs.length then [⟨.hbm, base, bs.drop k⟩] else [])

/-- D of R397: the bytes before the first page of an image. -/
def imageDir (np : Nat) : Nat := ceilDiv (0x9000 + 16 * np) pageSize * pageSize

/-- Writes bytes at an offset of the epoch's image in its target (R390, R397); a journal copy in host memory carries no
relaxed-ordering attribute (R500). -/
def State.toTarget (s : State) (e : Epoch) (off n : Nat) (cells : Mem) (data : Bool) : State :=
  let a := e.target.base.toNat + off
  let put := fun (m : Mem) => cells.foldl (fun m c => m.set (a + c.1) c.2) (m.clear a (a + n))
  if e.target.kind = 0 then ({ s with host := put s.host } : State).sendWrite data a n
  else { s with mqt := { s.mqt with remote := upd s.mqt.remote e.tgt (fun p => { p with mem := put p.mem }) } }

/-- A byte string as cells from offset 0. -/
def cellsOf (bs : List Byte) : Mem := Mem.setBytes [] 0 bs

/-- The STEP records of the open epoch's step are appended to its image as the journal writes them, up to the image's end
(R397, R398). -/
def State.keepRecord (s : State) (r : List Byte) : State :=
  match s.mqt.epoch with
  | some e =>
    if e.by_ = .job ∧ leOf (r.take 1) = 2 ∧ leOf ((r.drop 16).take 4) = e.stepw.toNat ∧ !e.recDone then
      let np := e.pages.length
      let bs := r.take (0x1000000 - e.recLen)
      let t := s.toTarget e (imageDir np + np * pageSize + e.recLen) bs.length (cellsOf bs) false
      { t with mqt := { t.mqt with epoch := some { e with
          recLen := e.recLen + r.length, recDone := !bitAt (leOf ((r.drop 1).take 1)) 6,
          cut := e.cut || bitAt (leOf ((r.drop 1).take 1)) 7 } } }
    else s
  | none => s

/-- Writes waiting records while the ring has room; each becomes visible whole, with MSI-X vector 3.
`fuel` bounds the records. -/
def State.flushJrn : Nat → State → State
  | 0, s => s
  | fuel + 1, s =>
    match s.job.jrn.waiting with
    | [] => s
    | r :: rest =>
      if s.jrnRoom r.length then
        let t := s.stores (s.jrnWrites s.job.jrn.head r)
        let j := t.job.jrn
        let t := { t with job := { t.job with jrn := { j with
          waiting := rest, head := (j.head + r.length / 64) % max 1 t.jrnUnits } } }
        State.flushJrn fuel ((t.keepRecord r).irq 3)
      else s

/-- Writes what has room. -/
def State.journalOut (s : State) : State := State.flushJrn (s.job.jrn.waiting.length + 1) s

/-- The step word of the step in progress; all ones in the prologue. -/
def State.curStepWord (s : State) : Word :=
  match s.job.step with
  | some n => s.job.stepBase + BitVec.ofNat 32 n
  | none => 0xFFFFFFFF

/-! ### Comparison with the reference (R257) -/

/-- Which entry types have compared fields, and whether ARG is among them. -/
def comparedType (conly : Bool) (t : Nat) : Bool :=
  if conly then t == 0x11 || t == 0x12 || t == 0x13 || t == 0x16
  else t == 0x10 || t == 0x11 || t == 0x12 || t == 0x13 || t == 0x14 || t == 0x16 || t == 0x17

/-- The compared part of an entry: type, core, RIDX, ARGW, ARG where it is compared, DIG. -/
def comparedPart (e : JEntry) : Nat × Nat × DWord × Word × DWord × DWord :=
  (e.etype, e.lcore, e.ridx, e.argw, if e.etype = 0x16 ∨ e.etype = 0x17 then 0 else e.arg, e.dig)

/-- An entry read back from its bytes. -/
def entryOf (bs : List Byte) : JEntry :=
  let v := fun o n => leOf ((bs.drop o).take n)
  ⟨v 0 1, v 2 1, BitVec.ofNat 32 (v 4 4), BitVec.ofNat 64 (v 8 8), BitVec.ofNat 64 (v 16 8), BitVec.ofNat 64 (v 24 8)⟩

/-- Whether the bytes of a reference record can be read: pages of HBM with VALID = 1 and RSV = 1, no bad line
(R257). Log entry 46: DEDUCED. -/
def State.refReadable (s : State) (a n : Nat) : Bool :=
  decide (a + n ≤ hbmEnd) && (pagesIn a n).all (fun p => bitAt (sparse s.pat.cur p) 15 && bitAt (sparse s.pat.cur p) 9)
    && !s.badLines.any (fun l => decide (a < l + 64 ∧ l < a + n))

/-- The records of one reference step from address `a`: each header with its VER, the entries, the next address; or the
address of a record that is bad or unreadable (R257). `fuel` bounds the records. -/
def State.readRef (s : State) : Nat → Nat → List (Nat × RecHdr) → List JEntry → (List (Nat × RecHdr) × List JEntry × Nat) ⊕ Nat
  | 0, a, _, _ => .inr a
  | fuel + 1, a, hs, acc =>
    let h := s.hbm.read a 64
    let v := fun o n => leOf ((h.drop o).take n)
    let len := v 4 4
    let n := v 2 2
    let all := s.hbm.read a len
    let ok := s.refReadable a 64 && decide (len = up64 (64 + 32 * n)) && s.refReadable a len && v 0 1 == 2
      && v 56 8 == pd61 s.key (all.take 56 ++ leBytes 8 0 ++ all.drop 64)
    if !ok then .inr a
    else
      let es := (List.range n).map (fun i => entryOf ((all.drop (64 + 32 * i)).take 32))
      let b := v 1 1
      let hd : RecHdr := ⟨2, bitAt b 7, false, v 16 4, v 20 4, v 24 8, v 32 8, v 40 8⟩
      let hs := hs ++ [(b % 16, hd)]
      if bitAt b 6 then s.readRef fuel (a + len) hs (acc ++ es) else .inl (hs, acc ++ es, a + len)

/-- The first difference of two entry sequences: type and RIDX. -/
def diffEntries : List JEntry → List JEntry → Option (Nat × DWord)
  | [], [] => none
  | a :: _, [] => some (a.etype, a.ridx)
  | [], b :: _ => some (b.etype, b.ridx)
  | a :: as, b :: bs =>
    if comparedPart a = comparedPart b then diffEntries as bs
    else if entryLe b a && !entryLe a b then some (b.etype, b.ridx) else some (a.etype, a.ridx)

/-- Compares a completed step's records with the next reference step (R257). `stop` is the command that completes them,
which a first difference stops where AUD_RPLCTL.STOP = 1 (R258); none where the job is stopping already. -/
def State.compareRef (s : State) (stop : Option Nat) (h : RecHdr) (es : List JEntry) : State :=
  let a := s.aud
  let conly := bitAt s.job.rplCtl.toNat 2
  if !bitAt s.job.rplCtl.toNat 0 || a.rplMis || a.rplBad || s.job.step.isNone then s
  else
    match s.readRef 4096 a.rplPos [] [] with
    | .inr at_ => ({ s with aud := { a with rplBad := true } }).ev 0xA002 at_ 0
    | .inl (hs, rs, nxt) =>
      let pick := fun (l : List JEntry) => l.filter (fun e => comparedType conly e.etype)
      let hd := !conly && hs.any (fun r =>
        r.1 != 1 || r.2.cut != h.cut || r.2.stepw != h.stepw || r.2.framelen != h.framelen || r.2.ncmds != h.ncmds)
      let d : Option (Nat × DWord) := if hd then some (0, noIdx) else diffEntries (pick es) (pick rs)
      let t := { s with aud := { a with rplPos := nxt } }
      match d with
      | none => t
      | some (ty, ri) =>
        let t := { t with aud := { t.aud with
          rplMis := true, rplEtype := ty, rplStep := BitVec.ofNat 32 h.stepw, rplIdx := ri } }
        let t := t.ev 0xA001 h.stepw ri.toNat
        match bitAt s.job.rplCtl.toNat 1, stop with
        | true, some i =>
          let t := t.noteFault s.job.stepIdx 0xA001
          { t with job := { t.job with stop := some ⟨i, 0xA001⟩ } }
        | _, _ => t

/-! ### Closing a step -/

/-- Forms the STEP records of the step in progress, once (R248, R252, R254): `beat` is where the
command that ends it issues, `cmds` the commands of the step, `stop` that command. Log entry 27: DEDUCED. -/
def State.closeStep (s : State) (cut : Bool) (beat cmds : Nat) (stop : Option Nat) : State :=
  if s.job.jrn.closed then s
  else
    let j := s.job.jrn
    let held := ((s.drn.cyc : Int) - s.drn.beat - j.stepHeld).toNat
    let es := sortEntries (jEntry 0x18 j.flags.toNat 0 0 :: jEntry 0x19 0 held j.stepWall
      :: jEntry 0x1A j.checkers 0 0 :: j.entries)
    let h : RecHdr := ⟨2, cut, false, s.curStepWord.toNat, beat - s.job.frame, cmds, s.job.stepIdx, j.stepDrone⟩
    let t := s.pushRecs h (cutEntries s.jrnMax (es.length + 1) es)
    let t := { t with
      rcv := { t.rcv with last := es }
      job := { t.job with jrn := { t.job.jrn with closed := true, entries := [] } } }
    t.compareRef stop h es

/-- The entries that a reset discards (R404), save those of retirements, which its replay does not make again: the next step
that is opened holds them (R22). -/
def Jrn.discard (j : Jrn) : Jrn :=
  { j with entries := [], remapped := j.entries.filter (fun e => e.etype == 0x1C) ++ j.remapped }

/-- The next step's journal begins. -/
def State.openStep (s : State) : State :=
  let j := s.job.jrn
  { s with job := { s.job with jrn := { j with
      entries := j.remapped, remapped := [], closed := false, stepDrone := s.drn.beat, stepHeld := (s.drn.cyc : Int) - s.drn.beat,
      stepWall := s.ptp.wall, checkers := 0, flags := 0 } } }

/-- The 0x16 entries that stand at a STEP (R544). Log entry 26: DEDUCED. -/
def State.tableEntries (s : State) (idx : Nat) : List JEntry :=
  let k := s.key
  let base := [s.jCmd 0x16 0xFF 0 idx s.pat.gen (patDigest k s.pat.cur),
    s.jCmd 0x16 0xFF 1 idx s.adt.gen (adtDigest k s.adt.cur)]
  let luts := s.jobCores.map (fun c => s.jCmd 0x16 c.1 2 idx (s.core c.2).lutGen (s.lutDigest c.2))
  let grp := if s.job.desc.nrank ≤ 1 then [] else [s.jCmd 0x16 0xFF 3 idx 0 (pd61 k s.job.grpTable)]
  base ++ luts ++ grp

/-- The JOB record (R248, R252). Log entry 29: DEDUCED. -/
def State.jobRecord (s : State) : State :=
  let d := s.job.desc
  let ident := s.fus.grade.toNat * 2 ^ 24 + ((s.fus.cdStep.getD 0 (0, 0)).1.toNat) * 2 ^ 16
    + ((s.fus.cdStep.getD 0 (0, 0)).2.toNat) * 2 ^ 8 + s.fus.fitting.toNat
  let es := [jEntry 1 0 d.jobid.toNat 0, jEntry 2 0 d.seed.toNat d.digkey.toNat,
    jEntry 3 (d.cls * 2 ^ 26) (d.rank * 65536 + d.nrank) d.cfgdig.toNat,
    jEntry 4 ident (leOf (s.pln.fwDig.take 8)) s.remapDigest]
  s.pushRecs ⟨1, false, false, s.job.stepBase.toNat, 0, 0, 0, 0⟩ [es]

/-- The END record (R248). -/
def State.pushEnd (s : State) : State :=
  s.pushRecs ⟨3, false, false, s.curStepWord.toNat, 0, 0, s.job.stepIdx, s.job.jrn.stepDrone⟩ [[]]

/-- The records of a job that ends in DONE or FAULTED: the STEP records the stop requires, then END
(R248). Log entry 25: DEDUCED. -/
def State.endRecords (s : State) (cut : Bool) (cmds : Nat) : State :=
  ((s.closeStep cut s.drn.beat cmds none).pushEnd).journalOut

/-! ### The end of a job -/

/-- Index of the earliest unissued command (CHN_NEXT, R513). -/
def State.nextIssue (s : State) : Nat :=
  let j := s.job
  let a := (j.flights.filter (fun f => !f.issued)).foldl (fun n f => min n f.idx)
    (match j.disp with | d :: _ => d.idx | [] => j.next)
  match j.stop with
  | some x => min a x.idx
  | none => a

/-- Commands of the step in progress that have issued. Log entry 25: DEDUCED. -/
def State.stepCmds (s : State) : Nat := s.nextIssue - s.job.stepIdx

/-- A boundary that no longer comes, its job having stopped: the Cast switch and its record, steps 1 and 2 of R291, were
made at the COMMIT's completion, and step 5 is made here. -/
def State.dropBoundary (s : State) : State :=
  if s.job.boundIdx.isNone then s
  else
    { s with
      cast := { s.cast with touch := [], loadOpen := false, badHdr := false }
      job := { s.job with bound := false, boundIdx := none } }

/-- A launched job stops in FAULTED: what is in flight is abandoned, the cut step's records and END are
formed (R222, R248), and a waiting PAUSE is rejected (R223). -/
def State.faultNow (s : State) : State :=
  let n := s.stepCmds
  let pause := s.job.pausePend
  let t := s.abandon.dropBoundary
  let t := { t with
    job := { t.job with kill := none, preempt := false, saving := false }
    drn := { t.drn with held := false, votes := [], len := 0 } }
  let t := (t.endRecords true n).setJob .faulted
  if pause then t.reject 2 else t

/-- A launched job ends in DONE after MUTE END. -/
def State.doneNow (s : State) (n : Nat) : State :=
  let pause := s.job.pausePend
  let t := { s with job := { s.job with pausePend := false, preempt := false, disp := [] } }
  let t := (t.endRecords false n).setJob .done
  if pause then t.reject 2 else t

/-- Whether the ring that a descriptor names lies in HBM, on whole pages. Log entry 128: DESIGN CHOICE. -/
def State.ringSane (s : State) : Bool :=
  let d := s.job.desc
  d.jrnaddr % pageSize == 0 && decide (d.jrnpages ≠ 0 ∧ d.jrnaddr + d.jrnpages * pageSize ≤ hbmEnd)

/-- A job in LOADING or ARMED enters FAULTED: its END record is formed, and written where its ring can hold it (R221,
R248). Log entry 128: DESIGN CHOICE. -/
def State.endLoad (s : State) : State :=
  let t := { s with job := { s.job with disp := [], pausePend := false } }
  (if t.ringSane then t.pushEnd.journalOut else t).setJob .faulted

/-- The job's state becomes FAULTED at once, with what was in flight abandoned and its last records formed. -/
def State.killJob (s : State) : State :=
  match s.jobSt with
  | .loading | .armed => s.endLoad
  | .running | .held | .paused => s.faultNow
  | _ => s

/-- The device enters FAILED, which holds its job in FAULTED (R221, R224). -/
def State.fail (s : State) : State := (s.setDev .failed).killJob

end Sys2Proof.Machine
end

