-- ==== Sys2Proof/Machine/Defence.lean ====
section
/-! DEFINITION. Alignment and clock steps (R464 to R467), retirement (R18 to R25), charges and their actions
(R379 to R383) and Patina (R450). -/
namespace Sys2Proof.Machine

/-! ### The arithmetic clock -/

/-- Attempts of R464: each listed failure (die, lane) is one failed attempt; the third fails the
device (R465). Log entry 82: DEDUCED. -/
def State.alignTries : Nat → List (Nat × Nat) → State → State
  | k, (d, l) :: r, s =>
    let t := s.ev 0x2060 (k + 1) (d * 256 + l)
    if k + 1 = 3 then
      ({ t with clk := { t.clk with aligned := false, tries := 3 } }.ev 0x2061 d 0).fail
    else State.alignTries (k + 1) r t
  | k, [], s =>
    { s with
      clk := { s.clk with
        stopped := false, aligned := true, relock := [], tries := k + 1
        nalign := BitVec.ofNat 16 (satAdd 16 s.clk.nalign.toNat 1) }
      drn := { s.drn with cyc := s.drn.cyc + 1024 }
      ptp := s.ptp.pass s.clk.mhz 1024 }

/-- Alignment (R464, R465): 1,024 held cycles counted in no DRN_HOLDCNT register. Log entry 82: DEDUCED. -/
def State.align (s : State) (fails : List (Nat × Nat)) : State := State.alignTries 0 fails s

/-- The core rail of every die moves to its fused value for the clock in force (R448, R468). Log entry 123: DESIGN
CHOICE. -/
def State.moveRail (s : State) : State :=
  { s with clk := { s.clk with rail := (List.range 4).map (fun d => Config.coreRail d s.clk.mhz) } }

/-- The voltage of a logical core in half millivolts: its die's rail with its trim above it (R448, R449). -/
def State.coreVolt (s : State) (l : Nat) : Nat := 2 * s.clk.rail.getD (l / s.perDie) 0 + 25 * s.pwr.trims.getD l 0

/-- The machine holds with cause 0x7, if it runs or holds already (R383, R451). -/
def State.bellowsHold (s : State) : State :=
  if s.live && s.dev == .up && !(s.drn.held && s.drn.votes.any (fun v => v.cause == 7)) then
    s.enterHold (s.drn.votes ++ [⟨7, 0, 0xFF⟩])
  else s

/-- The held cycles until the four clocks stop at a grid edge, one every 640 ns (R464, R466): where that edge falls is
timing. Log entry 124: DESIGN CHOICE. -/
def State.toGrid (s : State) : State :=
  if s.jobSt = .held ∧ s.dev = .up then
    let (n, t) := s.nat
    t.passHeld (n % (640 * s.clk.mhz / 1000 + 1))
  else s

/-- Failed attempts of an alignment that no command of the table tells: how many, and where, is free (R465). Log entry 82:
DEDUCED. -/
def State.drawFails (s : State) : List (Nat × Nat) × State :=
  let k := s.free
  ((List.range (Config.freeNat k % 4)).map (fun i => (Config.freeNat (k + 1 + 2 * i) % 4, Config.freeNat (k + 2 + 2 * i) % 256)),
    { s with free := k + 7 })

/-- The arithmetic clock lowered one 25 MHz step (R382), with the rails of the new step; at 500 MHz the actions are
exhausted. `l` is the logical core concerned. -/
def State.stepClock (s : State) (l : Nat) : State :=
  if s.clk.mhz ≤ 500 then (s.event 0x5034 (s.named l) (l / s.perDie) FieldRef.nil noIdx (BitVec.ofNat 64 (s.named l)) 0).fail
  else
    let t := { s with
      clk := { s.clk with mhz := s.clk.mhz - 25 }
      pwr := { s.pwr with ivCyc := 0, sumD := 0 } }
    t.moveRail.ev 0x5033 t.clk.mhz 0

/-- A clock step in a hold (R466): the clocks stop, the rails move, and the domains align again. Log entry 124: DESIGN
CHOICE. -/
def State.lowerClock (s : State) (l : Nat) : State :=
  if s.clk.mhz ≤ 500 then s.stepClock l
  else
    let (fs, u) := (s.bellowsHold.toGrid.stepClock l).drawFails
    u.align fs

/-! ### Retirement -/

/-- Retirement records that count against a die's four (R20, R21). -/
def State.retiredOn (s : State) (die : Nat) : List Retire :=
  s.fus.retired.filter (fun r => match r with
    | .core l _ _ => l / s.perDie == die
    | .spare d _ => d == die)

/-- The lowest usable spare of a die (R19 to R21). -/
def State.usableSpare (s : State) (die : Nat) : Option Nat :=
  let rs := s.retiredOn die
  if 4 ≤ rs.length then none
  else
    (s.fus.spares.getD die []).find? (fun p => !rs.any (fun r => match r with
      | .core _ _ new => new == p
      | .spare _ q => q == p))

/-- The physical core of a logical core, pending retirements included. -/
def State.physOf (s : State) (l : Nat) : Nat :=
  (s.remap.pend.lookup l).getD ((s.remap.cur.getD l 0).toNat % 64)

/-- Records a retirement of logical core `l`; the table entry waits in generation g + 1 (R19, R22). -/
def State.retire (s : State) (l new : Nat) : State :=
  { s with
    fus := { s.fus with retired := s.fus.retired ++ [.core l (s.physOf l) new] }
    remap := { s.remap with pend := put s.remap.pend l new } }

/-- A core's charge history cleared (R382). -/
def State.clearGuilt (s : State) (l : Nat) : State :=
  { s with aud := { s.aud with guilt := upd s.aud.guilt l (fun g => { g with charges := [] }) } }

/-- A 0x1C entry goes to the step in progress, or where none is open, to the next one of its job (R22, R252). -/
def State.jRemap (s : State) (e : JEntry) : State :=
  if s.live && s.dev == .up then s.jAdd e
  else if s.live || s.jobSt == .paused then
    { s with job := { s.job with jrn := { s.job.jrn with remapped := e :: s.job.jrn.remapped } } }
  else s

/-- The same for a parked job. -/
def Parked.jRemap (p : Parked) (e : JEntry) : Parked :=
  { p with job := { p.job with jrn := { p.job.jrn with remapped := e :: p.job.jrn.remapped } } }

/-- Makes the pending remap generation the active one (R23, R24), with a 0x1C entry for each retired
core in the journal of the job and of a parked one (R22, R252). -/
def State.switchRemap (s : State) : State :=
  match s.remap.pend with
  | [] => s
  | ps =>
    let cur := ps.foldl (fun c p => c.set p.1 (BitVec.ofNat 16 (0x8000 + p.1 / s.perDie * 64 + p.2))) s.remap.cur
    let t := { s with remap := ⟨s.remap.gen + 1, cur, []⟩ }
    let d := t.remapDigest
    let es := ps.map (fun p => jEntry 0x1C (t.named p.1) 0 d)
    let t := es.foldl State.jRemap t
    { t with rcv := { t.rcv with parked := t.rcv.parked.map (fun p => es.foldl Parked.jRemap p) } }

/-! ### Charges (R379 to R383) -/

/-- Marks the last action of a core. -/
def State.markGuilt (s : State) (l act : Nat) : State :=
  { s with aud := { s.aud with guilt := upd s.aud.guilt l (fun g => { g with last := act }) } }

/-- A core's trim raised one step, settling under a hold of cause 0x7 (R382, R449). -/
def State.raiseTrim (s : State) (l : Nat) : State :=
  let t := { s with pwr := { s.pwr with trims := upd s.pwr.trims l (fun n => min 8 (n + 1)) } }
  let t := t.bellowsHold
  if t.jobSt = .held ∧ t.dev = .up then t.passHeld (20 * t.clk.mhz - 1) else t

/-- The event of a raised trim, its ARG0 the new trim in mV. -/
def State.trimEvent (s : State) (code l trim arg1 : Nat) : State :=
  s.event code (s.named l) (l / s.perDie) FieldRef.nil noIdx (BitVec.ofNat 64 (trim * 25 / 2)) (BitVec.ofNat 64 arg1)

/-- Item 2 of R382: logical core `l` is retired to `new`. A charge's retirement clears the core's charge history; Patina's
changes none (R450). -/
def State.retireTo (s : State) (l new : Nat) (charged : Bool) : State :=
  let old := s.physOf l
  let r := s.retire l new
  let t := (if charged then r.clearGuilt l else r).markGuilt l 2
  t.event 0x5032 (s.named l) (l / s.perDie) FieldRef.nil noIdx (BitVec.ofNat 64 old) (BitVec.ofNat 64 new)

/-- The retirement is refused, and the clock is lowered instead where it can be (R382, items 3 and 4). -/
def State.refuseRetire (s : State) (l : Nat) : State :=
  let t := s.event 0x9020 (s.named l) (l / s.perDie) FieldRef.nil noIdx (BitVec.ofNat 64 (l / s.perDie)) 0
  if s.clk.mhz ≤ 500 then t else t.markGuilt l 3

/-- Items 2 to 4 of R382: retirement, else a clock step, else FAILED. -/
def State.retireOrSlow (s : State) (l : Nat) (charged : Bool) : State :=
  match s.usableSpare (l / s.perDie) with
  | some new => s.retireTo l new charged
  | none => (s.refuseRetire l).lowerClock l

/-- The event with which Patina goes on to items 2 to 4 (R450). -/
def State.patinaEvent (s : State) (l code : Nat) : State :=
  s.event 0x7031 (s.named l) (l / s.perDie) FieldRef.nil noIdx (BitVec.ofNat 64 code) (BitVec.ofNat 64 (s.physOf l))

/-- A pending action takes effect: 1 a charge's trim, 2 its items 2 to 4, 3 a trim of Patina, 4
Patina's items 2 to 4, and 5 those in place of a trim whose top has been reached since. -/
def State.applyAction (s : State) (l act : Nat) : State :=
  match act with
  | 1 => ((s.trimEvent 0x5031 l (s.pwr.trims.getD l 0 + 1) 0).raiseTrim l).markGuilt l 1
  | 2 => s.retireOrSlow l true
  | 3 => (s.raiseTrim l).markGuilt l 1
  | 5 => (s.patinaEvent l (s.pwr.margins.getD l 0)).retireOrSlow l false
  | _ => s.retireOrSlow l false

/-- Patina's pending actions from trim `n` on: a trim whose top has been reached goes on to items 2 to 4. -/
def patinaDue : Nat → List Nat → List Nat
  | _, [] => []
  | n, a :: r => if a = 3 then (if n < 8 then 3 :: patinaDue (n + 1) r else 5 :: patinaDue n r) else a :: patinaDue n r

/-- The first of items 2 to 4 among a core's actions serves them all. -/
def oneRetire : List Nat → List Nat
  | [] => []
  | a :: r => if a = 1 ∨ a = 3 then a :: oneRetire r else a :: r.filter (fun b => b == 3)

/-- The pending actions of one core, its charges' before Patina's. A charge's trim whose top Patina has reached
since goes on to item 2, and one action of items 2 to 4 serves all. Log entry 125: DESIGN CHOICE. -/
def State.dueActions (s : State) (l : Nat) : List Nat :=
  let g := s.aud.guilt.getD l Guilt.clean
  let n := s.pwr.trims.getD l 0
  let own := g.pend.map (fun a => if a = 1 ∧ 8 ≤ n then 2 else a)
  oneRetire (own.toList ++ patinaDue (n + (if own = some 1 then 1 else 0)) g.patina)

/-- A core's pending actions are those of `as` alone. -/
def State.leaveActions (s : State) (l : Nat) (as : List Nat) : State :=
  { s with aud := { s.aud with guilt := upd s.aud.guilt l (fun g =>
      { g with pend := if 2 ∈ as then some 2 else none, patina := as.filter (fun a => a == 4 || a == 5) }) } }

/-- The management processor's write of the guilt record, with the trims and the clock step, to its region (R380, R382,
R473). Log entry 91: DESIGN CHOICE. -/
def State.saveGuilt (s : State) : State :=
  let gs := s.aud.guilt.map (fun (g : Guilt) => { g with pend := none, patina := [] })
  { s with pln := { s.pln with flash := s.pln.flash ++ [.own 3 (.guilt gs s.pwr.trims s.clk.mhz)] } }

/-- Some core has an action pending. -/
def State.anyDue (s : State) : Bool := (List.range s.nCores).any (fun l => !(s.dueActions l).isEmpty)

/-- Every pending action in ascending core order (R383); trims and clock steps share one hold (R451). Log entry
125: DESIGN CHOICE. -/
def State.applyActions (s : State) : State :=
  let t := (List.range s.nCores).foldl (fun t l =>
    ((t.dueActions l).foldl (fun u a => u.applyAction l a) t).leaveActions l []) s
  let t := if s.anyDue then t.saveGuilt else t
  if t.jobSt = .held ∧ s.jobSt = .running then t.leaveHold else t

/-- Phase 3 of a reset (R403): the pending trims and clock steps of the guilt record are applied, which the alignment of phase
4 follows; retirements wait for phase 7. `v` counts the spares that they will take. -/
def State.earlyActions (s : State) : State :=
  let t := ((List.range s.nCores).foldl (fun (acc : State × State) l =>
    let (t, v, stay) := (acc.1.dueActions l).foldl (fun (a : State × State × List Nat) act =>
      let (t, v, stay) := a
      if act = 1 ∨ act = 3 then (t.applyAction l act, v, stay)
      else
        match v.usableSpare (l / t.perDie) with
        | some new => (t, v.retire l new, stay ++ [act])
        | none =>
          let t := if act = 5 then t.patinaEvent l (t.pwr.margins.getD l 0) else t
          ((t.refuseRetire l).stepClock l, v, stay)) (acc.1, acc.2, ([] : List Nat))
    (t.leaveActions l stay, v)) (s, s)).1
  if s.anyDue then t.saveGuilt else t

/-- With no job loaded, actions take effect at once (R383). -/
def State.idleActions (s : State) : State :=
  if s.jobSt = .empty ∧ s.dev = .up then s.applyActions.switchRemap else s

/-- The retirements that the actions pending make, with the spares they take: generation g + 1 of the remap table,
which is built in the background (R22, R23, R383). -/
def State.nextRemap (s : State) : List (Nat × Nat) :=
  ((List.range s.nCores).foldl (fun (acc : State × List (Nat × Nat)) l =>
    if (acc.1.dueActions l).any (fun a => a == 2 || a == 4 || a == 5) then
      match acc.1.usableSpare (l / s.perDie) with
      | some new => (acc.1.retire l new, acc.2 ++ [(l, new)])
      | none => acc
    else acc) (s, s.remap.pend)).2

/-- Charges of a core within the window (R373). -/
def State.inWindow (s : State) (g : Guilt) : List Nat :=
  let w := s.cfg 0x0202 * 3600000000000
  g.charges.filter (fun c => s.ptp.wall < c + w)

/-- A charge against a logical core from a source of 0x5030 (R380, R382, R383): several before one boundary count as
one, of which a failed known-answer test takes no trim (R376). Log entry 104: DEDUCED. -/
def State.charge (s : State) (l src : Nat) : State :=
  let g := s.aud.guilt.getD l Guilt.clean
  let old := s.inWindow g
  let cs := if g.pend.isSome then old else old ++ [s.ptp.wall]
  let act := if src = 1 then 2 else if g.pend.isSome then g.pend.getD 1
    else if old.isEmpty && decide (s.pwr.trims.getD l 0 < 8) then 1 else 2
  let g' : Guilt := { g with charges := cs, test := true, pend := some act }
  let t := { s with aud := { s.aud with guilt := s.aud.guilt.set l g' } }
  (t.event 0x5030 (s.named l) (l / s.perDie) FieldRef.nil noIdx (BitVec.ofNat 64 src) (BitVec.ofNat 64 cs.length)).saveGuilt.idleActions

/-- A charge against the module from a source of 0x5030: the test flag of every enabled core (R379, R386). Log entry 104:
DEDUCED. -/
def State.chargeModule (s : State) (src : Nat) : State :=
  ({ s with aud := { s.aud with
      guilt := s.aud.guilt.mapIdx (fun i g => if i < s.nCores then { g with test := true } else g) } } : State).saveGuilt.ev 0x5030 src 0

/-! ### Known-answer tests (R21, R381) -/

/-- An idle spare that fails its test is marked unusable (R21). -/
def State.badSpare (s : State) (p : Nat × Nat) : State :=
  let idle := p.2 ∈ s.fus.spares.getD p.1 [] ∧ !(s.retiredOn p.1).any (fun r => match r with
    | .core _ _ new => new == p.2
    | .spare _ q => q == p.2)
  if idle then { s with fus := { s.fus with retired := s.fus.retired ++ [.spare p.1 p.2] } } else s

/-- The tests of enabled cores whose flag is set: failures are (logical core, unit); the others have
their flags cleared. -/
def State.katCores (s : State) (fails : List (Nat × Nat)) : State :=
  let fl := fails.filter (fun p => decide (p.1 < s.nCores) && (s.aud.guilt.getD p.1 Guilt.clean).test)
  let t := { s with aud := { s.aud with
    guilt := s.aud.guilt.mapIdx (fun i g => { g with test := fl.any (fun p => p.1 == i) }) } }
  let t := if s.aud.guilt.any (fun g => g.test) then t.saveGuilt else t
  fl.foldl (fun u p =>
    (u.event 0x5020 (u.named p.1) (p.1 / s.perDie) FieldRef.nil noIdx (BitVec.ofNat 64 p.2) 0).charge p.1 1) t

/-- The known-answer tests of a reset with the actions they lead to at its end (R381, R383). -/
def State.knownAnswer (s : State) (inp : ResetInput) : State :=
  let t := inp.katSpares.foldl State.badSpare s
  ((t.katCores inp.katCores).applyActions).switchRemap

/-! ### Patina (R450) -/

/-- One core's margin sample. -/
def State.patina (s : State) (l code : Nat) : State :=
  let low := code < s.cfg 0x0406
  let n := if low then s.pwr.lowRuns.getD l 0 + 1 else 0
  let t := { s with pwr := { s.pwr with
    margins := s.pwr.margins.set l code
    lowRuns := s.pwr.lowRuns.set l (if n = 3 then 0 else n) } }
  if n = 3 then
    let g := s.aud.guilt.getD l Guilt.clean
    let n := t.pwr.trims.getD l 0 + (g.patina.filter (· == 3)).length + (if g.pend = some 1 then 1 else 0)
    let (act, u) := if n < 8 then (3, t.trimEvent 0x7030 l (n + 1) code) else (4, t.patinaEvent l code)
    ({ u with aud := { u.aud with guilt := upd u.aud.guilt l (fun g => { g with patina := g.patina ++ [act] }) } } : State).idleActions
  else t

end Sys2Proof.Machine
end

