-- ==== Sys2Proof/Machine/Residue.lean ====
section
/-! DEFINITION. The mod-7 residue code (R355), the operations it covers (R356), and the mismatch of a command that is
reported (R84, R358). -/
namespace Sys2Proof.Machine

/-- The residue of an integer (R355). -/
def res (x : Int) : Nat := (x % 7).toNat

/-- The residue of a shift by `s` bits (R355). -/
def resShift (s : Nat) : Nat := 2 ^ (s % 3)

/-- Two residues agree. -/
def resEq (a b : Nat) : Bool := a % 7 == b % 7

/-- The difference of two residues. -/
def resSub (a b : Nat) : Nat := a + 7 - b % 7

/-- A sum, or where `sub` holds a difference, of residues. -/
def resPm (sub : Bool) (a b : Nat) : Nat := if sub then resSub a b else a + b

end Sys2Proof.Machine

namespace Sys2Proof
open Sys2Proof.Machine

/-- Whether the residue that a unit predicts from the operands is that of the result it formed, or a word has its parity, even
with its bit (R355, R356). Log entry 147: DESIGN CHOICE. -/
def ResOp.agrees : ResOp → Bool
  | .product a b r => resEq (res r) (res a * res b)
  | .group ps r => resEq (res r) (ps.foldl (fun n p => n + res p.1 * resShift p.2) 0)
  | .exponent a b r => resEq (res r) (res a + res b)
  | .add sub x y z => resEq (res z) (resPm sub (res x) (res y))
  | .round z t d rest inc r => resEq (res z) (res t * resShift d + res rest) && resEq (res r) (res t + if inc then 1 else 0)
  | .int32 sub a b r c => resEq (resPm sub (res a.toNat) (res b.toNat)) (res r.toNat + 4 * res c)
  | .bits a b n o x => resEq (res a.toNat + res b.toNat) (res x.toNat + 2 * res n.toNat) && resEq (res o.toNat) (res x.toNat + res n.toNat)
  | .shift left n a r out =>
    if left then resEq (res a.toNat * resShift n) (res r.toNat + 4 * res out.toNat)
    else resEq (res a.toNat) (res r.toNat * resShift n + res out.toNat)
  | .chosen a r => resEq (res r) (res a)
  | .quotient r s d x => resEq (res r * res s + res d) (res x)
  | .parity w p => ((List.range 32).filter (fun i => w.getLsbD i)).length % 2 == (if p then 1 else 0)

/-- The kind of a checked operation. -/
def ResOp.kind : ResOp → ResKind
  | .product .. => .product | .group .. => .group | .exponent .. => .exponent | .add .. => .add | .round .. => .round
  | .int32 .. => .int32 | .bits .. => .bits | .shift .. => .shift | .chosen .. => .chosen
  | .quotient .. => .quotient | .parity .. => .parity

/-- Whether a kind of operation is of an accumulator add; in the array the others are of kind 0x5001 (R84). -/
def ResKind.adds : ResKind → Bool
  | .add | .round => true
  | _ => false

end Sys2Proof

namespace Sys2Proof.Machine

/-- The checked operations of an instruction of the vector engine (R93, R356). -/
def opcCovers (opc : Nat) : List ResKind :=
  if opc = 0x01 then [.product, .exponent, .add, .round]
  else if 0x10 ≤ opc ∧ opc ≤ 0x1B then [.product, .exponent, .add, .round, .parity]
  else if opc = 0x02 ∨ opc = 0x03 then [.add, .round]
  else if opc = 0x04 then [.product, .exponent, .round]
  else if opc = 0x05 ∨ opc = 0x06 ∨ opc = 0x0A ∨ opc = 0x0B then [.chosen]
  else if opc = 0x07 ∨ opc = 0x08 ∨ opc = 0x0C ∨ opc = 0x27 ∨ opc = 0x28 then [.round]
  else if opc = 0x20 ∨ opc = 0x21 then [.int32]
  else if 0x22 ≤ opc ∧ opc ≤ 0x24 then [.bits]
  else if opc = 0x25 ∨ opc = 0x26 then [.shift]
  else []

/-- The checked operations of a command, and no others (R356): of the array, whose scale products are exponent adds; of a
program's instructions, with the parity of the coefficient stores, and its output writes; of the conversions of QNT and DQT; of the nodes and leaves of the
reduction unit; of the collective adders. Log entry 64: DEDUCED. -/
def resCovers (rd : Reader) (cmd : Cmd) : List ResKind :=
  match cmd with
  | .mma _ | .mew _ | .lra _ => [.product, .group, .exponent, .add, .round]
  | .vprog c =>
    let b := readBlock rd c.paddr.toNat
    let soft := if b.form = 1 then [ResKind.product, .exponent, .add, .round, .chosen, .parity] else []
    .round :: .quotient :: soft ++ b.instrs.flatMap (fun w => opcCovers (VInstr.ofNat w).opc)
  | .qnt _ | .dqt _ => [.product, .exponent, .add, .round, .quotient]
  | .vred c =>
    match c.op.toNat with
    | 0 => [.add, .round]
    | 4 => [.product, .exponent, .add, .round]
    | 1 | 2 | 3 => [.chosen]
    | _ => []
  | .coll c => if c.cop = 1 then [.chosen] else if c.cop.toNat ≤ 2 then [.add, .round] else []
  | _ => []

/-- The event of a mismatch on a queue's unit (R84, R358). -/
def resCode (q : Queue) (k : ResKind) : Nat :=
  match q with
  | .mxq => if k.adds then 0x5002 else 0x5001
  | .vxq => 0x5003
  | _ => 0x5004

end Sys2Proof.Machine

namespace Sys2Proof
open Sys2Proof.Machine

/-- Whether one mismatch comes before another (R84): a stage-1 value of an LRA, the row, the column, the beat group, and a
product before the accumulator add that it feeds. -/
def ResObs.before (a b : ResObs) : Bool :=
  let key := fun (o : ResObs) => [if o.stage1 then 0 else 1, o.row, o.col, o.group, if o.op.kind.adds then 1 else 0]
  let rec lex : List Nat → List Nat → Bool
    | x :: xs, y :: ys => x < y || (x == y && lex xs ys)
    | _, _ => true
  lex (key a) (key b)

/-- The first mismatch of a command (R84). -/
def firstRes : List ResObs → Option ResObs
  | [] => none
  | o :: r =>
    match firstRes r with
    | none => some o
    | some p => some (if o.before p then o else p)

/-- ARG0 of a residue event: the row, block or segment (R84, R386), or of the vector engine the lane (R106). -/
def ResObs.arg0 (o : ResObs) (q : Queue) (w16 : Bool) : Nat :=
  match q with
  | .vxq => if w16 then o.row % 512 / 2 else o.row % 256
  | _ => o.row

/-- ARG1 of a residue event: the column, and bit 32 for a stage-1 value of an LRA (R84); else the instruction index or the
tree level (R386). -/
def ResObs.arg1 (o : ResObs) (cmd : Cmd) : Nat :=
  o.col + (match cmd with | .lra _ => if o.stage1 then 2 ^ 32 else 0 | _ => 0)

end Sys2Proof
end

