-- ==== Sys2Proof/Machine/Schedule.lean ====
section
/-! DEFINITION. When a command issues and completes: interlocks (R190 to R194, R75, R140, R162, R229, R296),
the windows of the move engines (R191), and the beats that pass (R194, R429 to R432). -/
namespace Sys2Proof.Machine

/-! ### Hazards -/

/-- Two lists of line ranges meet. -/
def linesMeet (a b : List (Nat × Nat)) : Bool :=
  a.any (fun x => b.any (fun y => decide (x.1 ≤ y.2) && decide (y.1 ≤ x.2)))

/-- Footprints meet (R193). -/
def hullsMeet (as bs : List Foot) : Bool :=
  as.any (fun a => bs.any (fun b => a.loc == b.loc && linesMeet a.hull b.hull))

/-- Rows meet, on 64-byte lines (R162). -/
def rowsMeet (as bs : List Foot) : Bool :=
  as.any (fun a => bs.any (fun b => a.loc == b.loc && linesMeet a.rows b.rows))

/-- The footprints of a command in flight: those it issued with, or those it would issue with now. -/
def State.feetOf (s : State) (f : Flight) : List Foot × List Foot :=
  if f.issued then (f.reads, f.writes) else s.feet f.idx (f.core.getD 0) f.cmd

/-- Its completion beat, once it has issued. -/
def Flight.ends (f : Flight) : Option Nat := if f.issued then some f.compl else none

/-- The beat of its last read of the footprints that `ws` meets: in a scratchpad as R191 places it,
elsewhere its completion (R193). Log entry 138: DESIGN CHOICE. -/
def Flight.lastRead (f : Flight) (rs ws : List Foot) : Option Nat :=
  let far := rs.any (fun r => hullsMeet [r] ws && (match r.loc with | .core _ => false | _ => true))
  if f.issued then some (if far then f.compl else f.lastSpd) else none

/-- The bubble of R78 between two array commands. -/
def bubble (g x : Cmd) : Nat :=
  let mew := fun (c : Cmd) => match c with | .mew _ => true | _ => false
  if mew g || mew x || g.leaveP != x.enterP then 2 else 0

/-- Whether a command writes through SHD. -/
def State.writesShd (s : State) (c : Cmd) : Bool :=
  (s.sides c).any (fun x => x.wr && x.sp == 2 && aKind x.addr == .shd)

/-- Whether a command writes a PERS page, under the generation in force as it issues (R149, R226, R229). -/
def State.writesPers (s : State) (f : Flight) : Bool := if f.issued then f.persWr else (s.persPage f.cmd).isSome

/-- The interlocks that the earlier command `g` puts on `x`: where each is counted, and the beat until
which it holds `x` back; none while `g` has not issued. -/
def State.hazards (s : State) (x g : Flight) : List (Ilk × Option Nat) :=
  let (xr, xw) := s.feetOf x
  let (gr, gw) := s.feetOf g
  let mv := x.queue == .mvq && g.queue == .mvq
  let own := fun (f : Flight) (b : Bool) => (f.core.getD 0, b)
  let data := if hullsMeet gw (xr ++ xw)
    then [(if mv && rowsMeet gw (xr ++ xw) then Ilk.move else .data, g.ends)] else []
  let war := if hullsMeet gr xw
    then (if mv && rowsMeet gr xw then [(Ilk.move, g.ends)] else [(.data, g.lastRead gr xw)]) else []
  let aper := match x.cmd.bank, g.cmd.bank with
    | some b, none => if own x b ∈ aperBanks (gr ++ gw) then [(Ilk.aper, g.ends)] else []
    | none, some b => if own g b ∈ aperBanks (xr ++ xw) then [(.aper, g.ends)] else []
    | _, _ => []
  let slot := if (x.queue != .ctl && g.queue == x.queue && g.core == x.core && g.slot == x.slot)
      || (x.gslot.isSome && g.gslot == x.gslot) then [(Ilk.unit, g.ends)] else []
  let ctl := match x.cmd, g.cmd with
    | .mute _ _, _ => [(Ilk.none, g.ends)]
    | .commit _, .decide _ => [(Ilk.none, g.ends)]
    | .commit _, _ => if s.writesPers g then [(Ilk.ctl, g.ends)] else []
    | _, .decide _ => if s.writesPers x && (x.part == .commitA || x.part == .commitB) then [(Ilk.data, g.ends)] else []
    | _, .commit _ =>
      if s.writesShd x.cmd && g.issued && decide (g.issue < x.planned) && decide (x.planned < g.compl)
      then [(Ilk.data, g.ends)] else []
    | _, _ => []
  data ++ war ++ aper ++ slot ++ ctl

/-- The earlier commands in flight. -/
def State.before (s : State) (x : Flight) : List Flight := s.job.flights.filter (fun g => decide (g.idx < x.idx))

/-- The wait for the unit's entry (R190): the previous command of the queue, its occupancy and the
bubble of R78. -/
def State.entryWait (s : State) (x : Flight) : List (Ilk × Option Nat) :=
  if x.queue == .ctl then []
  else
    match ((s.before x).filter (fun g => g.queue == x.queue && g.core == x.core)).getLast? with
    | none => []
    | some g =>
      [(.unit, if g.issued then some (g.issue + g.occ + (if x.queue == .mxq then bubble g.cmd x.cmd else 0)) else none)]

/-- Every interlock that stands before the issue of `x`. -/
def State.waits (s : State) (x : Flight) : List (Ilk × Option Nat) :=
  s.entryWait x ++ (s.before x).flatMap (s.hazards x)

/-- The first beat that no interlock of `waits` forbids; none while it depends on a command that has
not issued. -/
def readyBeat (planned : Nat) : List (Ilk × Option Nat) → Option Nat
  | [] => some planned
  | (_, none) :: _ => none
  | (_, some b) :: l => (readyBeat planned l).map (max b)

/-! ### Scratchpad banks (R138 to R142) -/

/-- The bank of a 64-byte line (R138): bits [10:6] of its address, XOR bits [15:11]. -/
def bankOf (line : Nat) : Nat := (line % 32) ^^^ (line / 32 % 32)

/-- The row of its bank that holds a line (R138): bits [22:11] of its address. -/
def bankRow (line : Nat) : Nat := line / 32 % 4096

/-- Lines that a bank holds (R138). -/
def bankLines : Nat := 3072

/-- Lines of a core's scratchpad (R138). -/
def spdLines : Nat := 32 * bankLines

/-- Bytes that a core's crossbar carries in a beat (R139): a line from each of its 32 banks. -/
def xbarBytes : Nat := 2048

/-- Whether two runs of lines use no common bank. -/
def banksApart (a b : Nat × Nat) : Bool :=
  let set := fun (r : Nat × Nat) => (List.range (min 32 (r.2 + 1 - r.1))).map (fun i => bankOf (r.1 + i))
  (set a).all (fun x => !((set b).contains x))

/-- All runs of a list use disjoint banks. -/
def allApart : List (Nat × Nat) → Bool
  | [] => true
  | r :: rs => rs.all (banksApart r) && allApart rs

/-- The scratchpad runs of footprints on one core. -/
def coreRuns (c : Nat) (fs : List Foot) : List (Nat × Nat) :=
  fs.flatMap (fun f => if f.loc = .core c then f.hull.filter (fun h => decide (h.1 < spdLines)) else [])

/-- The logical cores whose scratchpads footprints lie in. -/
def coresOf (fs : List Foot) : List Nat :=
  (fs.filterMap (fun f => match f.loc with | .core c => some c | _ => none)).eraseDups

/-- Whether an operand of an array command is an element plane. -/
def isElem (cmd : Cmd) (o : Opnd) : Bool :=
  match cmd with
  | .lra _ => o.f == wordF 6 || o.f == wordF 8 || o.f == wordF 10
  | _ => o.f == wordF 6 || o.f == wordF 7

/-- Bytes that a command's own requesters put on its core's crossbar in a beat at most (R62, R139): for each of 128 rows
the P elements of an array operand and its scale byte, and a run of 256 bytes for each stream of the vector engine and
of the reduction unit. -/
def State.portBytes (s : State) (f : Flight) : Nat :=
  let os := (computeOps (s.reader f.idx (f.core.getD 0)) f.cmd).filter (fun o => o.size ≠ 0)
  let elem := fun (p : Nat) (a : Byte) => 16 * p * (tfOr a).fmt.width
  let port := fun (p : Nat) (a b : Byte) => os.foldl (fun n o =>
    n + if isElem f.cmd o then (if o.f == wordF 6 then elem p a else elem p b) else 128) 0
  match f.cmd with
  | .mma c => port (ppb c.afb c.bfb) c.afb c.bfb
  | .mew c => port (ppb c.afb c.bfb) c.afb c.bfb
  | .lra c => os.foldl (fun n o =>
      n + if o.f == wordF 6 then elem (ppb c.xfb c.dfb) c.xfb else if o.f == wordF 8 then elem (ppb c.xfb c.dfb) c.dfb
        else if o.f == wordF 10 then elem 2 c.ufb else 128) 0
  | _ => match f.queue with
    | .vxq | .rdq => os.length * 256
    | _ => 0

/-- Bytes that commands put on the crossbar of core `c` in a beat at most (R139): their own requesters, and 256 of the
core's move engine, which serves all moves. -/
def State.xbarLoad (s : State) (c : Nat) (fs : List Flight) : Nat :=
  let moves := fs.any (fun f => f.queue == .mvq && c ∈ coresOf ((s.feetOf f).1 ++ (s.feetOf f).2))
  (fs.filter (fun f => f.core == some c)).foldl (fun n f => n + s.portBytes f) (if moves then 256 else 0)

/-- The issued commands in flight other than `x`. -/
def State.others (s : State) (x : Flight) : List Flight := s.job.flights.filter (fun g => g.issued && g.idx != x.idx)

/-- Whether the requests of two commands can meet: they use one bank of a scratchpad, one accumulator bank through the
aperture, which moves 256 bytes in a beat (R76), or a crossbar that cannot carry all requests at once (R139). Two moves
meet only as R191 places their lines (`Win.waits`). The spec gives the other streams no lines by beat. Log entry 2:
DESIGN CHOICE. -/
def State.meets (s : State) (x g : Flight) : Bool :=
  let (r, w) := s.feetOf x
  let (gr, gw) := s.feetOf g
  !(x.queue == .mvq && g.queue == .mvq) && (coresOf (r ++ w)).any (fun c => c ∈ coresOf (gr ++ gw) &&
    ((coreRuns c (r ++ w)).any (fun a => (coreRuns c (gr ++ gw)).any (fun b => !banksApart a b))
      || (aperBanks (r ++ w)).any (fun b => b.1 == c && b ∈ aperBanks (gr ++ gw))
      || decide (xbarBytes < s.xbarLoad c (x :: s.others x))))

/-- Whether the streams of the array, the vector engine or the reduction unit keep apart among themselves: R142 or
disjoint banks do so, and the crossbar of R139 carries them all. Log entry 2: DESIGN CHOICE. -/
def State.quiet (s : State) (x : Flight) : Bool :=
  let (r, w) := s.feetOf x
  let own := x.core.getD 0
  let elem := isElem x.cmd
  let within := match x.queue with
    | .mxq =>
      let os := (computeOps (s.reader x.idx own) x.cmd).filter (fun o => o.size ≠ 0)
      let ln := fun (o : Opnd) => linesOf (o.addr, o.size)
      (os.filter elem).all (fun o => o.addr % 2048 == 0)
        && (os.filter (fun o => !elem o)).all (fun o => os.all (fun p => p == o || banksApart (ln o) (ln p)))
    | .vxq | .rdq => allApart (coreRuns own (r ++ w))
    | _ => true
  within && decide (s.portBytes x ≤ xbarBytes)

/-- A list in fours, the last as long as it comes out. -/
def fours {α : Type} : List α → List (List α)
  | a :: b :: c :: d :: r => [a, b, c, d] :: fours r
  | [] => []
  | l => [l]

/-- Two lists of lists joined place by place. -/
def zipJoin {α : Type} : List (List α) → List (List α) → List (List α)
  | a :: as, b :: bs => (a ++ b) :: zipJoin as bs
  | [], bs => bs
  | as, [] => as

/-- The bank requests of a side by beat, as (core, bank), in the order of its lines (R138, R191). -/
def Side.requests (k : Nat) (x : Side) : List (List (Nat × Nat)) :=
  (fours x.lines).map (fun l => (l.filter (fun n => decide (n < spdLines))).map (fun n => (k, bankOf n)))

/-- Beats that the requests of one beat lose where each bank serves one of them in a beat (R139, R140): the earlier of
two is served first, and the others wait. -/
def lossAt (rs : List (Nat × Nat)) : Nat := rs.foldl (fun m a => max m (rs.count a)) 1 - 1

/-! ### Move-engine windows (R191) -/

/-- The core whose engine serves a side. -/
def State.engineOf (s : State) (own : Nat) (x : Side) : Option Nat :=
  match s.spaceLoc own x.sp x.ext with
  | .core c => some c
  | _ => none

/-- The bank requests of a move-class command by beat: its reads, then its writes. -/
def State.requests (s : State) (idx own : Nat) (cmd : Cmd) : List (List (Nat × Nat)) × List (List (Nat × Nat)) :=
  let of := fun (xs : List Side) => xs.foldl (fun l x =>
    match s.engineOf own x with
    | some k => zipJoin l (x.requests k)
    | none => l) []
  let xs := s.accessed idx own cmd
  (of (xs.filter (fun x => !x.wr)), of (xs.filter (fun x => x.wr)))

/-- Beats that a move-class command of contract latency `lat` loses to banks, for each beat of its reads and for each
beat of its writes. Where both windows are open its reads are served before its writes (R140), and a beat lost there
stands with its reads. -/
def State.stalls (s : State) (idx own lat : Nat) (cmd : Cmd) : List Nat × List Nat :=
  let (rs, ws) := s.requests idx own cmd
  let gap := lat - ws.length - 1
  if rs.length ≤ gap then (rs.map lossAt, ws.map lossAt)
  else
    let both := (zipJoin rs (List.replicate gap [] ++ ws)).map lossAt
    (both.take rs.length, (both.drop rs.length))

/-- The sum of a list. -/
def total (l : List Nat) : Nat := l.foldl (· + ·) 0

/-- The beats of a loss. -/
def Loss.total (l : Loss) : Nat := Machine.total l.rd + Machine.total l.wr + l.free + l.rwait + l.wwait

/-- The banks that the last beat of requests serves, where `l` beats were lost to them: each of those that all beats
were needed for. -/
def lastBanks (rs : List (List (Nat × Nat))) (l : Nat) : List Nat :=
  let r := rs.getLastD []
  ((r.filter (fun a => r.count a == l + 1)).map (fun a => a.2)).eraseDups

/-- The windows of a command that issues at `i` and completes at `c` with the beats `l` lost to banks, before its last
lines wait behind other moves: reads, then writes. A command's own read and write windows on one engine are not counted
against each other. Log entry 118: DESIGN CHOICE. -/
def State.windows (s : State) (idx own : Nat) (cmd : Cmd) (i c : Nat) (l : Loss) : List Win × List Win :=
  let mk := fun (x : Side) =>
    match s.engineOf own x with
    | none => none
    | some k =>
      let n := x.bytes
      let w := ceilDiv n 256
      let ln := ceilDiv n 64 - 4 * (w - 1)
      let e := (if x.wr then l.wr else l.rd).getLastD 0
      let bs := lastBanks (x.requests k) e
      let ln := if e = 0 then ln else bs.length
      if n = 0 then none
      else if x.wr then some (⟨k, c - l.wwait - w - Machine.total l.wr, c - l.wwait - 1, ln, true, bs⟩ : Win)
      else some ⟨k, i + 1, i + w + Machine.total l.rd, ln, false, bs⟩
  let xs := s.accessed idx own cmd
  ((xs.filter (fun x => !x.wr)).filterMap mk, (xs.filter (fun x => x.wr)).filterMap mk)

/-- Whether two windows need one engine in one beat, other than both in their last. -/
def Win.hits (h w : Win) : Bool :=
  h.core == w.core && decide (h.first ≤ w.last) && decide (w.first ≤ h.last)
    && !(h.last == w.last && (h.first == h.last || w.first == w.last))

/-- Whether a window asks an engine for more than four lines in a beat. -/
def winClash (hs : List Win) (w : Win) : Bool :=
  hs.any (fun h => h.hits w)
    || decide (4 < (hs.filter (fun h => h.core == w.core && h.last == w.last)).foldl (fun n h => n + h.lines) w.lines)

/-- A window some beats later. -/
def Win.later (w : Win) (d : Nat) : Win := { w with first := w.first + d, last := w.last + d }

/-- How many windows of `hs` the bank `b` serves in the last beat of `w`: its line waits so many beats (R140). -/
def Win.contended (hs : List Win) (w : Win) (b : Nat) : Nat :=
  (hs.filter (fun h => h.core == w.core && h.last == w.last && h.banks.contains b)).length

/-- Beats for which the last lines of a window wait behind those of `hs`: each bank serves one line in a beat, those
of the earlier command first (R140). -/
def Win.waits (hs : List Win) (w : Win) : Nat := w.banks.foldl (fun m b => max m (w.contended hs b)) 0

/-- The beats for which windows wait. -/
def waitsOf (hs ws : List Win) : Nat := ws.foldl (fun m w => max m (w.waits hs)) 0

/-- A window and the beats after it in which its waiting lines are served. -/
def Win.split (hs : List Win) (w : Win) : List Win :=
  let e := w.waits hs
  if e = 0 then [w]
  else
    let late := w.banks.filter (fun b => w.contended hs b != 0)
    [{ w with banks := w.banks.filter (fun b => w.contended hs b == 0) },
     ⟨w.core, w.last + 1, w.last + e, late.length, w.wr, late⟩]

/-- The smallest delay that clears every window of `ws`, with the beats for which it waits behind `es`, from those held
(R191). It is 0, or it moves some window past a held one, or onto its last beat. -/
def leastShift (es hs ws : List Win) : Nat :=
  let cand := 0 :: ws.flatMap (fun w => hs.flatMap (fun h =>
    if h.core = w.core then [h.last + 1 - w.first, h.last - w.last] else []))
  let ok := cand.filter (fun d => ws.all (fun w => ((w.later d).split es).all (fun v => !winClash hs v)))
  match ok with
  | [] => 0
  | d :: ds => ds.foldl min d

/-- The windows of the commands before one in Armature order. -/
def State.heldBefore (s : State) (idx : Nat) : List Win :=
  s.job.flights.flatMap (fun g => if g.issued && decide (g.idx < idx) then g.wins else [])

/-- The windows that stand before those of a command: the windows of earlier commands in Armature order, and those of
later ones that can no longer move, their reads and the writes that have begun. Log entry 118: DESIGN CHOICE. -/
def State.heldFor (s : State) (idx : Nat) : List Win :=
  s.job.flights.flatMap (fun g =>
    if !g.issued || g.idx == idx then []
    else if g.idx < idx then g.wins
    else g.wins.filter (fun w => !w.wr || decide (w.first ≤ s.drn.beat)))

/-- A command in flight gives way: the last lines of windows that cannot move any more wait for their banks, its write
window, not yet begun, moves behind the windows held before it, and its completion with it (R140, R191). -/
def Flight.giveWay (f : Flight) (beat : Nat) (held : List Win) : Flight :=
  let free := fun (w : Win) => w.wr && decide (beat < w.first)
  let stuck := fun (w : Win) => !free w && decide (beat ≤ w.last)
  let e := waitsOf held (f.wins.filter stuck)
  let moved := (f.wins.filter free).map (fun w => w.later e)
  let d := leastShift held held moved
  let last := moved.map (fun w => w.later d)
  let n := waitsOf held last
  if e + d + n = 0 then f
  else
    { f with
      compl := f.compl + e + d + n
      lastSpd := if e = 0 then f.lastSpd else max f.lastSpd (((f.wins.filter (fun w => !w.wr)).flatMap (Win.split held)).foldl (fun m w => max m w.last) 0)
      wins := (f.wins.filter (fun w => !free w)).flatMap (fun w => if stuck w then w.split held else [w])
        ++ last.flatMap (Win.split held)
      ilk := f.ilk
        ++ ((f.wins.filter stuck).filter (fun w => w.waits held != 0)).map (fun w => ⟨.bank, w.core, w.last, w.last + w.waits held⟩)
        ++ (if d = 0 then [] else (moved.take 1).map (fun w => ⟨.unit, f.core.getD 0, w.first, w.first + d⟩))
        ++ (last.filter (fun w => w.waits held != 0)).map (fun w => ⟨.bank, w.core, w.last, w.last + w.waits held⟩) }

/-- Every command behind `idx` in Armature order gives way to those before it. -/
def giveWays (beat idx : Nat) : List Win → List Flight → List Flight
  | _, [] => []
  | held, g :: r =>
    let g' := if g.issued && decide (idx < g.idx) then g.giveWay beat held else g
    g' :: giveWays beat idx (held ++ if g'.issued then g'.wins else []) r

/-- Commands placed later give way to a command that has just issued (R191). -/
def State.giveWay (s : State) (idx : Nat) : State :=
  { s with job := { s.job with flights := giveWays s.drn.beat idx [] s.job.flights } }

/-! ### Issue and completion beats (R182) -/

/-- Beats that a command loses to banks after its issue: those that its own lines fix, and the free numbers that stand for
what its streams cost it among themselves and behind the earlier commands that they meet (R140). -/
def State.bankLoss (s : State) (x : Flight) (lat : Nat) : Loss :=
  if x.queue == .ctl then ⟨[], [], 0, 0, 0⟩
  else
    let l := if x.queue == .mvq then s.stalls x.idx (x.core.getD 0) lat x.cmd else ([], [])
    let met := (s.others x).filter (fun g => decide (g.idx < x.idx) && s.meets x g)
    ⟨l.1, l.2, met.foldl (fun n g => n + Config.bankConflictBeats x.idx g.idx)
      (if s.quiet x then 0 else Config.bankConflictBeats x.idx x.idx), 0, 0⟩

/-- The issue and completion beats of a waiting command as they now stand, and the beats it loses to
banks; none while an earlier command it waits for has not issued. -/
def State.place (s : State) (x : Flight) : Option (Nat × Nat × Loss) :=
  (readyBeat x.planned (s.waits x)).map (fun r =>
    let own := x.core.getD 0
    let lat := s.latency x.idx own x.cmd
    let l := s.bankLoss x lat
    let before := s.heldBefore x.idx
    let held := s.heldFor x.idx
    let wins := fun i c => s.windows x.idx own x.cmd i c l
    let i0 := max r s.drn.beat
    let i := i0 + leastShift before held (wins i0 i0).1
    let er := waitsOf before (wins i i).1
    let c := i + lat + l.total + er
    let c := c + leastShift before held (wins i c).2
    let ew := waitsOf before (wins i c).2
    (i, c + ew, { l with rwait := er, wwait := ew }))

/-- Runs of lost beats: `ls` are the beats lost at successive beats of a window that begins at `a`. -/
def lossRuns (core : Nat) : Nat → List Nat → List IlkIv
  | _, [] => []
  | a, l :: ls => (if l = 0 then [] else [⟨.bank, core, a, a + l⟩]) ++ lossRuns core (a + 1 + l) ls

/-- The interlock beats of a command after its issue, each where it passes (R194): at the lines that wait for their
banks, and, before its write window, those lost to other streams and those for which the window gives way. -/
def State.slips (s : State) (x : Flight) (i c : Nat) (l : Loss) (lat : Nat) : List IlkIv :=
  let own := x.core.getD 0
  let (rw, ww) := s.windows x.idx own x.cmd i c l
  let shift := c - (i + lat + l.total)
  let w0 := match ww with | w :: _ => w.first | [] => c
  let behind := fun (n : Nat) (w : Win) => if n = 0 then [] else [(⟨.bank, w.core, w.last, w.last + n⟩ : IlkIv)]
  (match rw with | w :: _ => lossRuns w.core (i + 1) l.rd ++ behind l.rwait w | [] => [])
    ++ (match ww with | w :: _ => lossRuns w.core w.first l.wr ++ behind l.wwait w | [] => [])
    ++ (if l.free = 0 then [] else [⟨.bank, own, w0 - shift - l.free, w0 - shift⟩])
    ++ (if shift = 0 then [] else [⟨.unit, own, w0 - shift, w0⟩])

/-- A command in flight loses `n` beats to banks behind an earlier command that issues at `beat`: what it has not done
yet comes later (R140). -/
def Flight.press (f : Flight) (beat n : Nat) : Flight :=
  if n = 0 || decide (f.compl ≤ beat) then f
  else
    { f with
      compl := f.compl + n, lastSpd := if beat < f.lastSpd then f.lastSpd + n else f.lastSpd
      wins := f.wins.map (fun w => if w.wr && decide (beat < w.first) then w.later n else w)
      ilk := ⟨.bank, f.core.getD 0, f.compl, f.compl + n⟩ :: f.ilk }

/-- The issued commands behind `x` in Armature order whose streams meet those of `x` wait behind it (R140). -/
def State.press (s : State) (x : Flight) : State :=
  { s with job := { s.job with flights := s.job.flights.map (fun g =>
      if g.issued && decide (x.idx < g.idx) && s.meets g x then g.press s.drn.beat (Config.bankConflictBeats g.idx x.idx) else g) } }

/-! ### Passing beats -/

/-- The intervals in which a command occupies the array's entry, with their weights (R429). -/
def Flight.demand (f : Flight) : List (Nat × Nat × Nat) :=
  if !f.issued then []
  else
    match f.cmd with
    | .mma _ | .mew _ => [(f.issue, f.issue + f.occ, f.cmd.weight)]
    | .lra c =>
      let s2 := 8 * ceilDiv c.rank 2
      [(f.issue, f.issue + f.occ - s2, f.cmd.weight), (f.issue + f.occ - s2, f.issue + f.occ, 10)]
    | _ => []

/-- Cycles withheld before one beat of demand `d` (R430), the ceiling being new once the slope interval has ended (R432).
`fuel` bounds the intervals. -/
def Pwr.withheld (mhz dMax d : Nat) : Nat → Pwr → Nat
  | 0, _ => 0
  | fuel + 1, p =>
    let l := p.limit * dMax
    let k := ceilDiv (64 * d - (p.credit + l)) (max l 1)
    let r := mhz - p.ivCyc
    if k < r then k else r + Pwr.withheld mhz dMax d fuel (p.part mhz dMax 0 r)

/-- Beats of [a, b) that lie in [x, y). -/
def within (a b x y : Nat) : Nat := min b y - max a x

/-- Adds to one of a core's interlock counters (R203, R144). -/
def Core.count (k : Core) (i : Ilk) (n : Nat) : Core :=
  let add := fun (w : Word) => BitVec.ofNat 32 (satAdd 32 w.toNat n)
  match i with
  | .data => { k with ilkData := add k.ilkData }
  | .unit => { k with ilkUnit := add k.ilkUnit }
  | .aper => { k with ilkAper := add k.ilkAper }
  | .move => { k with ilkMove := add k.ilkMove }
  | .bank => { k with conflict := add k.conflict }
  | _ => k

/-- Counts interlock beats. -/
def State.countIlk (s : State) (core : Option Nat) (i : Ilk) (n : Nat) : State :=
  if n = 0 then s
  else
    match i, core with
    | .none, _ => s
    | .ctl, _ => { s with ring := { s.ring with ilkCtl := BitVec.ofNat 32 (satAdd 32 s.ring.ilkCtl.toNat n) } }
    | _, some c => s.setCore c (fun k => k.count i n)
    | _, none => s

/-- For each counter the beat until which a waiting command counts there: the latest of its bounds. -/
def waitUntil (far : Nat) (ws : List (Ilk × Option Nat)) (i : Ilk) : Nat :=
  ws.foldl (fun m w => if w.1 = i then max m (w.2.getD far) else m) 0

/-- The core at which a waiting command's interlock beats are counted: a DECIDE's at the core that holds its decide
block, which it waits for. Log entry 119: DESIGN CHOICE. -/
def State.ilkCore (s : State) (f : Flight) : Option Nat :=
  match f.cmd with
  | .decide c => some (s.logical c.fcore.toNat)
  | _ => f.core

/-- Counts the interlock beats of [a, b) (R194): before its issue a command counts in every kind it waits for, up to
the last beat of that kind, and once all of them have passed as a wait for its engine until its window is clear. Log
entry 119: DESIGN CHOICE. -/
def State.countWaits (s : State) (a b : Nat) : State :=
  let one := fun (t : State) (f : Flight) =>
    if f.issued then f.ilk.foldl (fun u v => u.countIlk (some v.core) v.kind (within a b v.first v.stop)) t
    else
      let ws := s.waits f
      let t := [Ilk.data, .unit, .aper, .move, .ctl].foldl (fun u k =>
        u.countIlk (s.ilkCore f) k (within a b f.planned (waitUntil b ws k))) t
      match readyBeat f.planned ws, s.place f with
      | some r, some (i, _, _) => t.countIlk f.core .unit (within a b r i)
      | _, _ => t
  s.job.flights.foldl one s

/-- `n` beats without a hold. -/
def State.plainBeats (s : State) (n : Nat) : State :=
  { s with
    drn := { s.drn with beat := s.drn.beat + n, cyc := s.drn.cyc + n }
    ptp := s.ptp.pass s.clk.mhz n
    rcv := { s.rcv with sliceNs := s.rcv.sliceNs + ((s.ptp.pass s.clk.mhz n).wall - s.ptp.wall), hang := s.rcv.hang + n } }

/-- `n` beats of equal demand `d` under the limiter (R430), each after the cycles withheld before it. -/
def State.limit (d : Nat) : Nat → State → State
  | 0, s => s
  | n + 1, s =>
    let t := s.ownHold 7 (s.pwr.withheld s.clk.mhz s.dMax d 64)
    let p := { t.pwr with
      credit := min (t.pwr.credit + t.pwr.limit * t.dMax) (64 * t.dMax) - 64 * d, sumD := t.pwr.sumD + d, ivCyc := t.pwr.ivCyc + 1 }
    let t := { t with pwr := if t.clk.mhz ≤ p.ivCyc then p.slopeEnd t.clk.mhz t.dMax else p }
    State.limit d n (t.plainBeats 1)

/-- `n` beats of equal demand that the limit covers. -/
def State.covered (s : State) (d n : Nat) : State :=
  ({ s with pwr := s.pwr.spend s.clk.mhz s.dMax d n } : State).plainBeats n

/-- `n` beats of equal demand pass: where the limit covers the demand, no cycle is withheld and the credit follows in one
step. A new ceiling follows each slope interval; one that follows a whole interval of covered demand covers it. Log entry
79: DEDUCED. -/
def State.meter (s : State) (d n : Nat) : State :=
  if n = 0 then s
  else if 64 * d ≤ s.pwr.limit * s.dMax then
    let k := min n (max 1 (s.clk.mhz - s.pwr.ivCyc))
    let t := s.covered d k
    if n = k then t
    else if 64 * d ≤ t.pwr.limit * t.dMax then t.covered d (n - k)
    else t.limit d (n - k)
  else s.limit d n

/-- The next beat after `a` at which the demand changes, or `b`. -/
def nextEdge (ivs : List (Nat × Nat × Nat)) (a b : Nat) : Nat :=
  ivs.foldl (fun m v => let m1 := if a < v.1 then min m v.1 else m; if a < v.2.1 then min m1 v.2.1 else m1) b

/-- The demand at a beat. -/
def demandAt (ivs : List (Nat × Nat × Nat)) (a : Nat) : Nat :=
  ivs.foldl (fun n v => if v.1 ≤ a ∧ a < v.2.1 then n + v.2.2 else n) 0

/-- The beats up to `b` under the limiter, in stretches of equal demand. `fuel` bounds the stretches. -/
def State.stretches (ivs : List (Nat × Nat × Nat)) (b : Nat) : Nat → State → State
  | 0, s => s
  | fuel + 1, s =>
    let a := s.drn.beat
    if b ≤ a then s
    else
      let e := nextEdge ivs a b
      State.stretches ivs b fuel (s.meter (demandAt ivs a) (e - a))

/-- Beats pass up to beat `b`, which stands next. Log entry 108: DESIGN CHOICE. -/
def State.passBeats (s : State) (b : Nat) : State :=
  if b ≤ s.drn.beat then s
  else
    let ivs := s.job.flights.flatMap Flight.demand
    (s.countWaits s.drn.beat b).stretches ivs b (2 * ivs.length + 2)

end Sys2Proof.Machine
end

