-- ==== Sys2Proof/Machine/Records.lean ====
section
/-! DEFINITION. Completion records (R233, R234, R511), service modes (R114), what the checkers find at a
retirement (R83, R84, R143, R151, R358), flags (R113, R118), and the end of a job. -/
namespace Sys2Proof

/-- Commands that always leave a record (R233). -/
def Cmd.alwaysRec : Cmd → Bool
  | .stepc _ | .decide _ | .commit _ | .snap _ | .mute _ _ => true
  | _ => false

end Sys2Proof

namespace Sys2Proof.Machine

/-! ### Service mode -/

/-- Whether command `idx` belongs to step 0 of a verifying job, whose service mode is RECOVERY (R400). -/
def State.verified (s : State) (idx : Nat) : Bool :=
  s.job.verifying && (match s.job.steps.reverse with
    | [] => false
    | [z] => decide (z ≤ idx)
    | z :: o :: _ => decide (z ≤ idx ∧ idx < o))

/-- SVCMODE of known-answer tests (R114). -/
def testMode : Nat := 2

/-- SVCMODE in force for command `idx` (R114, R256, R400, R404): 0 NORMAL, 1 START, 2 TEST in phase 6 of a reset, 3 RECOVERY.
With no job loaded, MUTED or FAILED, no command executes and the table names no mode: 0 reads. Log entry 114: DESIGN
CHOICE. -/
def State.mode (s : State) (idx : Nat) : Nat :=
  match s.dev with
  | .booting | .off => 1
  | .recovering => if s.rcv.phase = 6 then testMode else 3
  | _ =>
    let replays := match s.rcv.replayTo with | some m => decide (idx < m) | none => false
    if bitAt s.job.rplCtl.toNat 0 || replays || s.verified idx then 3 else 0

/-- Whether flags are gathered. -/
def State.gathers (s : State) (idx : Nat) : Bool := s.mode idx == 0

/-- Whether a command's record has been written before the reset that it is replayed after (R404). -/
def State.repeated (s : State) (idx : Nat) : Bool :=
  match s.rcv.replayTo with | some m => decide (idx < m) | none => false

/-! ### Completion records -/

/-- The bytes of a record (R234). -/
def CRec.bytes (r : CRec) (wrap : Bool) : List Byte :=
  let fl := (if wrap then 0x8000 else 0) + (if r.hold then 4 else 0) + (if r.fg then 2 else 0) + (if r.ckf then 1 else 0)
  leBytes 8 r.cidx ++ leBytes 1 r.opcode ++ leBytes 1 r.lcore ++ leBytes 2 r.flags.toNat ++ leBytes 2 fl ++ leBytes 2 0
    ++ leBytes 4 r.issue ++ leBytes 4 r.lat ++ leBytes 8 r.aux.toNat

/-- Whether the completion ring has a free entry (R511). -/
def State.crRoom (s : State) : Bool := decide (s.job.crProd < s.ring.crCons.toNat + 2 ^ s.job.desc.crlog2)

/-- Writes one record to the ring, with MSI-X vector 0. -/
def State.writeRec (s : State) (r : CRec) : State :=
  let n := s.job.crProd
  let lg := s.job.desc.crlog2
  let t := s.storeOrdered (s.job.desc.craddr + 32 * (n % 2 ^ lg)) (r.bytes (n / 2 ^ lg % 2 == 0))
  ({ t with job := { t.job with crProd := n + 1 } }).irq 0

/-- Writes waiting records while the ring has room, in order. `fuel` bounds them. -/
def State.flushRecs : Nat → State → State
  | 0, s => s
  | fuel + 1, s =>
    match s.job.crPend with
    | [] => s
    | r :: rest =>
      if s.crRoom then State.flushRecs fuel (({ s with job := { s.job with crPend := rest } }).writeRec r) else s

/-- A record falls due: it follows those that wait (R233). Log entry 23: DEDUCED. -/
def State.putRec (s : State) (r : CRec) : State :=
  let q := s.job.crPend ++ [r]
  State.flushRecs q.length { s with job := { s.job with crPend := q } }

/-- The record of a completed command. -/
def State.recOf (s : State) (f : Flight) : CRec :=
  ⟨f.idx, f.cmd.opcode, f.cmd.hdr.lcore.toNat, f.flags, f.hold, s.gathers f.idx, f.ckf, f.issue - f.frame, f.compl - f.issue, f.aux⟩

/-- Whether a command's record is written (R233). -/
def Flight.records (f : Flight) : Bool := f.cmd.hdr.crec || f.flags != 0 || f.ckf || f.cmd.alwaysRec

/-! ### What the checkers found -/

/-- Findings of a retirement: the completion record's CKF, the core to charge and the code of a silent
error (R364), the code of an uncorrectable read (R143, R151), and the corrected events raised. -/
structure Found where
  ckf : Bool
  silent : Option (Nat × Option Nat)
  ecc : Option Nat
  seen : List Nat
  deriving DecidableEq, Repr

/-- Nothing found. -/
def Found.none : Found := ⟨false, Option.none, Option.none, []⟩

/-- Adds to a saturating half-word counter. -/
def addHalf (h : Half) (n : Nat) : Half := BitVec.ofNat 16 (satAdd 16 h.toNat n)

/-- Counts a command's residue mismatches in its core's window (R84, R385). -/
def Core.countRes (k : Core) (code n : Nat) : Core :=
  if code ≤ 0x5002 then { k with chkRes := addHalf k.chkRes n }
  else if code = 0x5003 then { k with vecRes := addHalf k.vecRes n }
  else { k with redRes := addHalf k.redRes n }

/-- One checker event of the step (R252, entry 0x1A). -/
def State.countChecker (s : State) (n : Nat) : State :=
  { s with job := { s.job with jrn := { s.job.jrn with checkers := s.job.jrn.checkers + n } } }

/-- The named core of a checker event: a collective adder names none (R358). -/
def Flight.chkCore (f : Flight) : Nat :=
  match f.cmd with
  | .coll _ => 0xFF
  | _ => f.cmd.hdr.lcore.toNat

/-- A row's or column's exit sum compared with its entry sum (R82, R83). -/
def State.checkSum (s : State) (f : Flight) (code i : Nat) (entry sum : Nat) (a : Found) : State × Found :=
  if entry = sum then (s, a)
  else
    let t := (s.evCmd code f.chkCore FieldRef.nil f.idx i 0).setCore (f.core.getD 0) (fun k => { k with chkCsum := addHalf k.chkCsum 1 })
    (t.countChecker 1, { a with ckf := true, silent := a.silent.or (some (code, f.core)) })

/-- The job stops when this beat's events are done. -/
def State.killAt (s : State) (idx code : Nat) (later : Bool) : State :=
  let t := s.noteFault idx code
  { t with job := { t.job with kill := some ((t.job.kill.getD true) && later) } }

/-- Whether a core's retirement waits for the next batch boundary, whose copy reads its scratchpad and
accumulators (R23, R383). -/
def State.copying (s : State) (l : Nat) : Bool := (s.nextRemap.lookup l).isSome

/-- The mismatches among what the residue checkers of a command saw: operations that the code covers there, whose two
residues differ (R355, R356). Log entry 64: DEDUCED. -/
def Flight.mismatches (f : Flight) (obs : List CheckObs) : List ResObs :=
  obs.filterMap (fun o => match o with
    | .residue r => if decide (r.op.kind ∈ f.covers) && !r.op.agrees then some r else none
    | _ => none)

/-- The residue event of a command: its first mismatch, the others counted (R84, R358). Log entry 116: DESIGN
CHOICE. -/
def State.observeRes (f : Flight) (obs : List CheckObs) (acc : State × Found) : State × Found :=
  let ms := f.mismatches obs
  match firstRes ms with
  | none => acc
  | some o =>
    let (s, a) := acc
    let code := resCode f.queue o.op.kind
    let t := s.setCore (f.core.getD 0) (fun k => k.countRes code ms.length)
    let t := t.evCmd code f.chkCore FieldRef.nil f.idx (o.arg0 f.queue f.w16) (o.arg1 f.cmd)
    let who := match f.cmd with | .coll _ => none | _ => f.core
    (t.countChecker 1, { a with ckf := true, silent := a.silent.or (some (code, who)) })

/-- The HBM controllers' count of one line by die (R151, R507). -/
def Pci.countLine (p : Pci) (addr : Nat) (uncor : Bool) : Pci :=
  let d := min 3 (addr / 0x3600000000)
  if uncor then { p with uncor := upd p.uncor d (fun h => addHalf h 1) } else { p with cor := upd p.cor d (fun h => addHalf h 1) }

/-- A line as it is read: counted, with 0x3011 or, at each multiple of the threshold, 0x3010 (R151, R176). The event
has the address in ARG0 and its page in ARG1. Log entry 113: DESIGN CHOICE. -/
def State.countLine (s : State) (lcore idx addr : Nat) (uncor : Bool) : State :=
  let t := { s with pci := s.pci.countLine addr uncor }
  let n := (t.pci.cor.getD (min 3 (addr / 0x3600000000)) 0).toNat
  if uncor then t.evCmd 0x3011 lcore FieldRef.nil idx addr (pageOf addr)
  else if n % max 1 (s.cfg 0x0507) = 0 then t.evCmd 0x3010 lcore FieldRef.nil idx addr (pageOf addr)
  else t

/-- The lines found uncorrectable among `n` bytes that the host or a peer reads: each is an uncorrectable read (R151,
R153). Log entry 146: DEDUCED. -/
def State.readBad (s : State) (a n : Nat) : State :=
  (s.badLines.filter (fun l => decide (a < l + 64 ∧ l < a + n))).foldl (fun t l => t.countLine 0xFF noIdx.toNat l true) s

/-- One word of a core's memories as it is read (R143, R144): an uncorrectable one is counted with its address, a
corrected one is counted. -/
def State.countWord (s : State) (core addr : Nat) (uncor : Bool) : State :=
  if uncor then
    s.setCore core (fun k => { k with eccUncor := addHalf k.eccUncor 1, eccAddr := BitVec.ofNat 32 (addr / 8 * 8 % 2 ^ 23) })
  else s.setCore core (fun k => { k with eccCor := addHalf k.eccCor 1 })

/-- A word that a remap copy reads (R23): counted as any read, with its event, a corrected one's at most once (`seen`,
R176); an uncorrectable one names the logical core and stops the job `idx` in the cycle after the switch, and the table
still switches. -/
def State.copyWord (s : State) (idx : Nat) (seen : List Nat) (o : CheckObs) : State × List Nat :=
  match o with
  | .sram core addr acc uncor =>
    if !s.copying core then (s, seen)
    else
      let base := if acc then 0x3003 else 0x3001
      let t := s.countWord core addr uncor
      if !uncor && decide (base ∈ seen) then (t, seen)
      else
        let t := t.event (if uncor then base + 1 else base) (s.named core) (core / s.perDie) FieldRef.nil (BitVec.ofNat 64 idx) (BitVec.ofNat 64 addr) 0
        (if uncor && s.live then ({ t with job := { t.job with chk := true } }).killAt idx (base + 1) true else t,
          if uncor then seen else base :: seen)
  | _ => (s, seen)

/-- One finding at the retirement of `f`. A finding that the command's unit cannot make is no finding. A word found at a
COMMIT is one that the remap copy of its boundary read. The events of one retirement follow the residue event in the order
of the findings. Log entry 51: DEDUCED. Log entry 116: DESIGN CHOICE. Log entry 64: DEDUCED. -/
def State.observe (f : Flight) (acc : State × Found) (o : CheckObs) : State × Found :=
  let (s, a) := acc
  let isMma := match f.cmd with | .mma _ => true | _ => false
  let isCommit := match f.cmd with | .commit _ => true | _ => false
  match o with
  | .residue _ => acc
  | .rowExit i sum => if isMma && i < 128 then s.checkSum f 0x5010 i (f.sums.1.getD i 0) sum.toNat a else acc
  | .colExit j sum => if isMma && j < 128 then s.checkSum f 0x5011 j (f.sums.2.getD j 0) sum.toNat a else acc
  | .sram core addr acc' uncor =>
    let base := if acc' then 0x3003 else 0x3001
    if isCommit then
      let (t, seen) := s.copyWord f.idx a.seen o
      (t, { a with seen := seen })
    else
      let t := s.countWord core addr uncor
      if uncor then
        (t.evCmd (base + 1) f.cmd.hdr.lcore.toNat FieldRef.nil f.idx addr 0, { a with ckf := true, ecc := a.ecc.or (some (base + 1)) })
      else if base ∈ a.seen then (t, a)
      else (t.evCmd base f.cmd.hdr.lcore.toNat FieldRef.nil f.idx addr 0, { a with seen := base :: a.seen })
  | .hbm addr uncor =>
    (s.countLine f.cmd.hdr.lcore.toNat f.idx addr uncor, if uncor then { a with ckf := true, ecc := a.ecc.or (some 0x3011) } else a)

/-- Insertion of a finding by the core it names. -/
def insObs (o : CheckObs) : List CheckObs → List CheckObs
  | [] => [o]
  | x :: xs =>
    match x, o with
    | .sram c _ _ _, .sram d _ _ _ => if c ≤ d then x :: insObs o xs else o :: x :: xs
    | _, _ => x :: insObs o xs

/-- What is found at a retirement in the order in which it is: a COMMIT's copies run one after another in ascending logical
core (R24). -/
def Flight.ordered (f : Flight) (obs : List CheckObs) : List CheckObs :=
  match f.cmd with
  | .commit _ => obs.foldl (fun l o => insObs o l) []
  | _ => obs

/-! ### What a finding says of the result -/

/-- The cell of a bank that a byte of the accumulators belongs to (R73). -/
def cellOf (a : Nat) : Nat × Nat := ((a - 0x600000) % 0x10000 / 512, (a - 0x600000) % 512 / 4)

/-- Whether a finding leaves the byte at `a` of what a command writes damaged: the row or column of a checksum, the cell
of an array residue and the row of a stage-1 value, and everything that an uncorrectable word or another unit's mismatch
went into (R83, R84, R143, R151). Log entry 115: DESIGN CHOICE. -/
def Flight.damages (f : Flight) (a : Nat) (o : CheckObs) : Bool :=
  match o with
  | .rowExit i sum => (match f.cmd with | .mma _ => true | _ => false) && (cellOf a).1 == i && f.sums.1.getD i 0 != sum.toNat
  | .colExit j sum => (match f.cmd with | .mma _ => true | _ => false) && (cellOf a).2 == j && f.sums.2.getD j 0 != sum.toNat
  | .residue r =>
    decide (r.op.kind ∈ f.covers) && !r.op.agrees
      && (f.queue != .mxq || ((cellOf a).1 == r.row && (r.stage1 || (cellOf a).2 == r.col)))
  | .sram _ _ _ uncor | .hbm _ uncor => uncor

/-- An uncorrectable word or line. -/
def CheckObs.unread (o : CheckObs) : Bool :=
  match o with
  | .sram _ _ _ u | .hbm _ u => u
  | _ => false

/-- The flags that a command can raise (R56, R68, R111, R136, R333): the array, the reduction unit and collectives never
SAT, and only a softmax program FM. -/
def Flight.canRaise (f : Flight) : FlagWord :=
  match f.cmd with
  | .mma _ | .mew _ | .lra _ | .coll _ => flagNV ||| flagOVF ||| flagUZ
  | .qnt _ | .dqt _ | .vred _ => flagNV ||| flagSAT ||| flagOVF ||| flagUZ
  | .vprog _ => flagNV ||| flagSAT ||| flagOVF ||| flagUZ ||| flagDZ ||| (if f.fm = 0 then 0 else flagFM)
  | _ => 0

/-- Whether FP32 cells hold a NaN. -/
def nanCells : List Byte → Bool
  | a :: b :: c :: d :: r => f32 (leVal [a, b, c, d]) == .nan || nanCells r
  | _ => false

/-- A command whose checkers found an error delivers damaged values: each damaged byte is free, and so are its flags and,
where its digest or length follows from damaged data, AUX; an array command's NV says whether a cell was written with NaN
(R68). Log entry 115: DESIGN CHOICE. -/
def State.spoil (s : State) (f : Flight) (obs : List CheckObs) : State × Flight :=
  let bad := fun (a : Nat) => obs.any (f.damages a)
  let step := fun (acc : Nat × List Wr) (w : Wr) =>
    (acc.1 + w.bytes.length,
      acc.2 ++ [{ w with bytes := w.bytes.mapIdx (fun i b => if bad (w.addr + i) then Config.freeByte (s.free + acc.1 + i) else b) }])
  let ctl := f.queue == .ctl
  if ctl || !(obs.any (fun o => match o with
      | .rowExit i _ => f.damages (512 * i + 0x600000) o
      | .colExit j _ => f.damages (4 * j + 0x600000) o
      | .residue r => f.damages (512 * r.row + 4 * r.col + 0x600000) o
      | _ => f.damages 0 o)) then (s, f)
  else
    let (n, ws) := f.eff.foldl step (0, [])
    let k := s.free + n
    let unread := obs.any CheckObs.unread
    let arith := match f.cmd with | .move _ | .gath _ | .dig _ => false | _ => true
    ({ s with free := k + 2 },
     { f with
        eff := ws
        flags :=
          if !arith then f.flags
          else
            let g := BitVec.ofNat 16 (Config.freeNat k) &&& f.canRaise
            if f.queue == .mxq then (g &&& ~~~flagNV) ||| (if ws.any (fun w => nanCells w.bytes) then flagNV else 0) else g
        aux := if unread && !arith then BitVec.ofNat 64 (Config.freeNat (k + 1)) else f.aux })

/-! ### Flags (R113, R118, R119) -/

/-- The sticky word of a retiring command: gathered into the step, VXE_FLAGS and VXE_FMCNT, with an event
for each bit of the job's mask; nothing in a mode without gathering (R115). -/
def State.gather (s : State) (f : Flight) : State :=
  if !s.gathers f.idx then s
  else
    let vec := match f.queue with | .vxq | .rdq => true | _ => false
    let t := if vec then
      s.setCore (f.core.getD 0) (fun k => { k with
        vxeFlags := k.vxeFlags ||| f.flags, fmCnt := BitVec.ofNat 32 (satAdd 32 k.fmCnt.toNat f.fm) }) else s
    let t := { t with job := { t.job with jrn := { t.job.jrn with flags := t.job.jrn.flags ||| f.flags } } }
    (List.range 6).foldl (fun u b =>
      if f.flags.getLsbD b && bitAt u.ring.flagEvt b then
        u.evCmd (0x1001 + b) f.cmd.hdr.lcore.toNat FieldRef.nil f.idx 0 0
      else u) t

/-! ### The end of a job -/

/-- A fault found at a command: later commands never issue, and the job stops once every earlier one
has completed (R201). Log entry 19: DEDUCED. -/
def State.stopAt (s : State) (idx code : Nat) : State :=
  let j := s.job
  let st := match j.stop with
    | some x => if x.idx ≤ idx then x else ⟨idx, code⟩
    | none => ⟨idx, code⟩
  let t := s.noteFault idx code
  { t with job := { t.job with stop := some st, disp := [], flights := j.flights.filter (fun f => decide (f.idx < st.idx)) } }

/-- A failed check of command `idx` on a core: its event, then the stop. Log entry 18: DEDUCED. -/
def State.failCheck (s : State) (idx lcore : Nat) (c : Nat × FieldRef × Nat × Nat) : State :=
  (s.evCmd c.1 lcore c.2.1 idx c.2.2.1 c.2.2.2).stopAt idx c.1

/-- A silent error stops the job in the cycle after the completion and charges the core it names
(R364). -/
def State.silentError (s : State) (f : Flight) (a : Found) : State :=
  match a.silent with
  | none => s
  | some (code, who) =>
    let t := match who with | some c => s.charge c 0 | none => s
    ({ t with job := { t.job with chk := true } }).killAt f.idx code true

/-- An uncorrectable read stops the job at the retirement (R143, R151). Log entry 18: DEDUCED. -/
def State.eccStop (s : State) (f : Flight) (a : Found) : State :=
  match a.ecc with
  | none => s
  | some code => ({ s with job := { s.job with chk := true } }).killAt f.idx code false

/-! ### The trigger of a compute-only reset (R402) -/

/-- Entries, newest first, with those of an earlier reset that the replay did not reach (R404). -/
def keepEntries (new old : List JEntry) : List JEntry :=
  let fixed := fun (l : List JEntry) => l.filter JEntry.inOrder
  let free := fun (l : List JEntry) => l.filter (fun e => !e.inOrder)
  (fixed old).take ((fixed old).length - (fixed new).length) ++ fixed new
    ++ free new ++ (free old).filter (fun e => !(free new).any (samePlace e))

/-- Whether every command that completes at beat `b` has retired, so that its boundary is whole. -/
def State.wholeBnd (s : State) (b : Nat) : Bool := s.job.flights.all (fun g => !(g.issued && decide (g.compl ≤ b)))

/-- What a Duo has formed stands, and a boundary not yet whole is formed anew by the replay (R262, R404). -/
def State.cutBnds (s : State) : State :=
  let b := s.drn.beat
  let f := max s.duo.formed (if s.wholeBnd b then b + 1 else b)
  let early := fun (l : List Bnd) => l.filter (fun x => decide (x.beat < f))
  { s with duo := { s.duo with
      own := early s.duo.own, send := early s.duo.send, rds := s.duo.rds.filter (fun r => decide (r.1 < f)), formed := f } }

/-- A compute-only reset begins with a cause of CKM_RCVSTAT (R402, R403): the Chanters stop, what is in
flight is abandoned, and a waiting PAUSE or pre-emption goes on waiting (R422). Log entry 71: DEDUCED. -/
def State.trigger (s : State) (cause : Nat) : State :=
  if s.dev = .off ∨ s.dev = .booting ∨ s.dev = .recovering then s
  else
    let s := if s.live && s.job.kill.isSome then s.faultNow else s
    let n := min 255 (s.rcv.count + 1)
    let j := s.job
    let mine := s.live || s.jobSt == .paused
    let t := if mine then s.cutBnds else s
    let t := if s.live then t.abandon else t
    let t := { t with
      job := { t.job with pausePend := j.pausePend, kill := none }
      rcv := { t.rcv with
        count := n, cause := cause, phase := 1, failed := s.dev == DevCond.failed
        kept := if mine then keepEntries j.jrn.entries s.rcv.kept else s.rcv.kept
        marked := s.rcv.marked || s.jobSt == JobSt.paused } }
    (t.setDev .recovering).ev 0xA050 cause n

/-- The reset that follows a job's end by a checker's finding, where RCV_AUTO.CHK is 1. -/
def State.autoReset (s : State) (chk : Bool) : State := if chk && bitAt (s.cfg 0x0305) 1 then s.trigger 3 else s

end Sys2Proof.Machine
end

