-- ==== Sys2Proof/Machine/Cast.lean ====
section
/-! DEFINITION. The Cast: its state record (R299), shard loads (R301 to R308), and the batch boundary (R291,
R298, R313, R383). -/
namespace Sys2Proof.Machine

/-! ### The Cast state record (R299) -/

/-- Pages in each copy. -/
def State.castPages (s : State) : Nat := s.cfg 0x0501

/-- The bitmap of SIDE. -/
def sideMap (inv : Bool) (side : List Nat) (np : Nat) : List Byte :=
  (List.range (ceilDiv np 8)).map (fun k =>
    BitVec.ofNat 8 (((List.range 8).map (fun i =>
      if 8 * k + i < np ∧ xor inv (decide (8 * k + i ∈ side)) then 2 ^ i else 0)).sum))

/-- The record's bytes with its RECDIG at key point 1. -/
def castRecord (c : Cast) (np : Nat) : List Byte :=
  let pre := leBytes 2 1 ++ [if c.p then 1 else 0, 0] ++ leBytes 4 np ++ leBytes 8 c.nswitch.toNat
  let post := List.replicate 40 (0 : Byte) ++ sideMap c.inv c.side np
  pre ++ leBytes 8 (pd61 1 (pre ++ leBytes 8 0 ++ post)) ++ post

/-- Writes the record to page CAST_STATEPG. -/
def State.writeCast (s : State) : State :=
  s.store ⟨.hbm, s.cfg 0x0504 * pageSize, castRecord s.cast s.castPages⟩

/-- The pages whose bit is set in a bitmap. -/
def bitsOf (bs : List Byte) : List Nat :=
  (bs.mapIdx (fun k b => ((List.range 8).filter (fun i => b.getLsbD i)).map (fun i => 8 * k + i))).flatten

/-- The Cast a record holds, where VER, NPAGES and RECDIG are right. -/
def castOf (np : Nat) (bs : List Byte) : Option Cast :=
  let v := fun o n => leOf ((bs.drop o).take n)
  let d := pd61 1 (bs.take 16 ++ leBytes 8 0 ++ bs.drop 24)
  if v 0 2 = 1 ∧ v 4 4 = np ∧ v 16 8 = d ∧ bs.length = 64 + ceilDiv np 8 then
    some { Cast.reset with
      p := bitAt (v 2 1) 0, side := (bitsOf (bs.drop 64)).filter (fun p => decide (p < np)), nswitch := BitVec.ofNat 64 (v 8 8) }
  else none

/-- The record is read as a job enters RUNNING; an invalid one is recreated with 0xA030. -/
def State.readCast (s : State) : State :=
  let pg := s.cfg 0x0504
  match castOf s.castPages (s.hbm.read (pg * pageSize) (64 + ceilDiv s.castPages 8)) with
  | some c => { s with cast := c }
  | none => (({ s with cast := Cast.reset }).writeCast).ev 0xA030 pg 0

/-! ### Device reserves (R322, R387, R388) -/

/-- Pages of one die's share of the send retention and of the early-arrival reserve. -/
def State.netPages (s : State) : Nat × Nat := (s.cfg 0x010A, s.cfg 0x0109)

/-- Pages of one die's share of the staging reserve. -/
def State.stagePages (s : State) : Nat := 512 * s.cfg 0x0301

/-- The first page of a die's SAVE area. -/
def State.saveBase (s : State) (die : Nat) : Nat := (die + 1) * 110592 - s.netPages.1 - s.netPages.2 - 200

/-- The first page of a die's reserves. -/
def State.reserveBase (s : State) (die : Nat) : Nat := s.saveBase die - s.stagePages

/-- Whether a page is a device reserve. -/
def State.isReserve (s : State) (p : Nat) : Bool := decide (s.reserveBase (p / 110592) ≤ p) && decide (p < nPages)

/-- First byte of a die's record in its SAVE area. -/
def State.dieRecord (s : State) (die : Nat) : Nat := s.saveBase die * pageSize

/-- A range of HBM cleared and then written. -/
def State.putRange (s : State) (lo hi : Nat) (ws : List (Nat × List Byte)) : State :=
  { s with hbm := ws.foldl (fun m w => m.setBytes w.1 w.2) (s.hbm.clear lo hi) }

/-- Each die's record takes its part of the page attribute generation in force (R389). -/
def State.copyPat (s : State) : State :=
  (List.range 4).foldl (fun t d =>
    let a := t.dieRecord d + 0x1000
    t.putRange a (a + 221184) ((t.pat.cur.filter (fun e => e.1 / 110592 == d)).map (fun e =>
      (a + 2 * (e.1 % 110592), leBytes 2 e.2)))) s

/-- A die's record takes both lookup-table generations of a core (R388, R389). -/
def State.copyLuts (s : State) (l : Nat) : State :=
  let k := s.core l
  let b := s.dieRecord (l / s.perDie) + 0x80000 + 0x1000 * (l % s.perDie)
  s.putRange b (b + 0x1000) (k.lutCur.map (fun c => (b + c.1, [c.2])) ++ k.lutNext.map (fun c => (b + 0x800 + c.1, [c.2])))

/-- Die 0's record takes the adapter directory generation in force (R389). -/
def State.copyAdt (s : State) : State :=
  let a := s.dieRecord 0 + 0x40000
  s.putRange a (a + 262144) (s.adt.cur.map (fun e => (a + 4 * e.1, leBytes 4 e.2)))

/-! ### The load manifest (R301) -/

/-- Stores a number in HBM. -/
def State.hput (s : State) (a n v : Nat) : State := s.store ⟨.hbm, a, leBytes n v⟩

/-- The states of the manifest's entries. -/
def State.estates (s : State) : List Nat := (List.range s.nEntries).map (fun e => s.hnum (s.ment e + 24) 1)

/-- Whether the header breaks R303: NSHARD out of range, or a nonzero reserved field. Log entry 65: DEDUCED. -/
def State.badHeader (s : State) : Bool :=
  let n := s.nShard
  n == 0 || decide (65534 < n) || s.hnum (s.man + 21) 3 != 0 || s.hnum (s.man + 28) 36 != 0

/-- A shard MOVE at its issue beat opens the load of its batch (R303). Log entry 65: DEDUCED. -/
def State.openLoad (s : State) : State :=
  if s.cast.loadOpen then s
  else
    let bad := s.badHeader
    let t := ((s.hput (s.man + 12) 4 s.nShard).hput (s.man + 16) 4 0).hput (s.man + 20) 1 1
    let t := (List.range s.nEntries).foldl (fun u e => u.hput (u.ment e + 24) 2 0) t
    { t with cast := { t.cast with loadOpen := true, badHdr := bad } }

/-- NPEND and NFAIL recounted. -/
def State.recount (s : State) : State :=
  let es := s.estates
  (s.hput (s.man + 12) 4 (es.filter (· == 0)).length).hput (s.man + 16) 4 (es.filter (· == 2)).length

/-- An entry's outcome: VERIFIED or FAILED, with its fetches (R304). -/
def State.endShard (s : State) (e : Nat) (ok : Bool) (tries : Nat) : State :=
  ((s.hput (s.ment e + 24) 1 (if ok then 1 else 2)).hput (s.ment e + 25) 1 tries).recount

/-- NPEND and NFAIL while a load is open. -/
def State.loadLeft (s : State) : Nat × Nat := (s.hnum (s.man + 12) 4, s.hnum (s.man + 16) 4)

/-- Whether an UPDATE now would meet an incomplete load (R306). -/
def State.loadIncomplete (s : State) : Bool := s.cast.loadOpen && s.loadLeft != (0, 0)

/-- The Cast pages of an entry. -/
def State.entryPages (s : State) (e : Nat) : List Nat := pagesIn (s.hnum (s.ment e) 8) (s.hnum (s.ment e + 8) 8)

/-- At an UPDATE: COMMITTED entries with a touched page become MODIFIED (R308), and an open load is
committed (R306). -/
def State.commitLoad (s : State) : State :=
  let valid := !s.badHeader
  let t := if valid then
      (List.range s.nShard).foldl (fun u e =>
        if u.hnum (u.ment e + 24) 1 = 3 ∧ (u.entryPages e).any (fun p => decide (p ∈ u.cast.touch)) then u.hput (u.ment e + 24) 1 4
        else u) s
    else s
  if t.cast.loadOpen then
    let u := (t.hput (t.man + 20) 1 2).hput (t.man + 24) 4 0
    (List.range u.nEntries).foldl (fun v e => if v.hnum (v.ment e + 24) 1 = 1 then v.hput (v.ment e + 24) 1 3 else v) u
  else t

/-- At a SKIP an open load is abandoned (R306). -/
def State.abandonLoad (s : State) : State :=
  if s.cast.loadOpen then s.hput (s.man + 20) 1 3 else s

/-! ### The switch at COMMIT (R298) -/

/-- UPDATE: P and SIDE[p] of every untouched page invert, so that a touched page alone changes copy. -/
def Cast.switch (c : Cast) : Cast :=
  let side := c.side.filter (fun p => !decide (p ∈ c.touch)) ++ c.touch.filter (fun p => !decide (p ∈ c.side))
  { c with p := !c.p, inv := !c.inv, side := side, nswitch := c.nswitch + 1 }

/-! ### Tables at a boundary (R109, R313) -/

/-- Whether a host-loaded table is due at the boundary of step word `w` and not ready: a load that failed leaves it
so until a later load of the same generation succeeds (R313, R314). -/
def Table.late (t : Table) (w : Word) : Bool := t.st != 2 && decide (w ∈ t.due)

/-- The switch of a host-loaded table that is due. -/
def Table.turn (t : Table) (step : Option Nat) (w : Word) : Table :=
  if t.st = 2 ∧ t.apply = w then { Table.empty with gen := (t.gen + 1) % 65536, cur := t.nxt, switchedIn := step } else t

/-- Whether a switch is due. -/
def Table.turns (t : Table) (w : Word) : Bool := t.st == 2 && t.apply == w

/-- A flight that writes a core's lookup-table store. -/
def Flight.lutTo (f : Flight) (c : Nat) : Bool := f.issued && f.writes.any (fun w => match w.loc with
  | .core k => k == c && w.hull.any (fun h => decide (0x18800 ≤ h.2))
  | _ => false)

/-- A MOVE in flight into a lookup-table store whose next generation is due. -/
def State.lutMove (s : State) (f : Flight) : Bool :=
  f.issued && f.writes.any (fun w => match w.loc with
    | .core k => (s.core k).lutRdy && w.hull.any (fun h => decide (0x18800 ≤ h.2))
    | _ => false)

/-- Whether every lookup-table MOVE in flight has its data. Log entry 52: DEDUCED. -/
def State.lutReady (s : State) : Bool := s.job.flights.all (fun f => !s.lutMove f || f.need == 0 || s.arrived f)

/-- Whether the boundary's tables are ready (R313). -/
def State.tablesReady (s : State) (w : Word) : Bool := !s.pat.late w && !s.adt.late w && s.lutReady

/-- A lookup-table MOVE whose data came from outside has its effect once all of it is here. -/
def State.settleLut (s : State) (f : Flight) : State :=
  match f.cmd with
  | .move c =>
    if s.lutMove f && f.need != 0 && s.arrived f then
      let (t, g) := s.moveArrived f c
      { t with job := { t.job with flights := t.job.flights.map (fun h => if h.idx = f.idx then { g with need := 0, dead := [] } else h) } }
    else s
  | _ => s

/-- Lookup-table writes in flight reach the store before the switch. Log entry 52: DEDUCED. -/
def State.landLuts (s : State) : State :=
  let s := s.job.flights.foldl State.settleLut s
  let isLut := fun (w : Wr) => match w.loc with | .lut _ => true | _ => false
  let ws := (s.job.flights.filter (fun f => f.issued)).flatMap (fun f => f.eff.filter isLut)
  let t := s.stores ws
  { t with job := { t.job with flights := t.job.flights.map (fun f => 
    if f.issued then { f with eff := f.eff.filter (fun w => !isLut w), landed := f.landed ++ f.eff.filter isLut } else f) } }

/-- One core's lookup tables switch (R108, R109). -/
def Core.turnLut (k : Core) : Core :=
  if k.lutRdy then { k with lutCur := k.lutNext, lutGen := (k.lutGen + 1) % 65536, lutRdy := false } else k

/-- Step 3 of R291 with its 0x17 entries (R252), for the COMMIT `idx` of step word `w`. -/
def State.switchTables (s : State) (idx : Nat) (w : Word) : State :=
  let pt := s.pat.turns w
  let at_ := s.adt.turns w
  let luts := s.jobCores.filter (fun c => (s.core c.2).lutRdy)
  let t := s.landLuts
  let t := { t with
    pat := t.pat.turn t.job.step w
    adt := t.adt.turn t.job.step w
    cores := t.cores.map Core.turnLut }
  let t := if pt then t.copyPat else t
  let t := if at_ then t.copyAdt else t
  let t := luts.foldl (fun u c => u.copyLuts c.2) t
  let t := if pt then t.jAdd (t.jCmd 0x17 0xFF 0 idx t.pat.gen (patDigest t.key t.pat.cur)) else t
  let t := if at_ then t.jAdd (t.jCmd 0x17 0xFF 1 idx t.adt.gen (adtDigest t.key t.adt.cur)) else t
  let t := luts.foldl (fun u c => u.jAdd (u.jCmd 0x17 c.1 2 idx (u.core c.2).lutGen (u.lutDigest c.2))) t
  if pt || at_ then t.irq 2 else t

/-! ### The boundary (R291) -/

/-- Step 4: remap copies, 6,400 held cycles of cause 0xA for each retired core (R23 to R25), then the
actions of charges (R383), whose retirements are copied in the same way. Log entry 51: DEDUCED. Log entry 135:
DESIGN CHOICE. -/
def State.remapStep (s : State) : State :=
  let a := s.remap.pend.length
  let t := (s.ownHold 0xA (6400 * a)).applyActions
  (t.ownHold 0xA (6400 * (t.remap.pend.length - a))).switchRemap

/-- Steps 3 to 5 of a COMMIT, or at launch the Cast record and steps 4 and 5. Log entry 51: DEDUCED. -/
def State.boundarySteps (s : State) (idx : Option Nat) (w : Word) : State :=
  let t := match idx with | some i => s.switchTables i w | none => s.writeCast
  let t := t.remapStep
  { t with
    cast := { t.cast with touch := [], loadOpen := false, badHdr := false }
    job := { t.job with bound := false, boundIdx := none } }

/-- The boundary that is due, if its tables are ready; the Cast switch and its record, steps 1 and 2, were made at the
COMMIT's completion. -/
def State.boundary (s : State) : Option State :=
  if !s.job.bound then none
  else
    match s.job.boundIdx with
    | none => some (s.boundarySteps none 0)
    | some i => if s.tablesReady (s.stepWord i) then some (s.boundarySteps (some i) (s.stepWord i)) else none

end Sys2Proof.Machine
end

