-- ==== Sys2Proof/Machine/NetCore.lean ====
section
/-! DEFINITION. Sending on the collective protocol (R326, R328, R344) and the pieces of a COLL (R331 to R335). -/
namespace Sys2Proof.Machine

/-! ### Flows and packets -/

/-- The ports and counters of one NET block with the job's part of another. -/
def Net.withJob (n j : Net) : Net :=
  { n with retOvf := j.retOvf, retain := j.retain, unkept := j.unkept, peers := j.peers, flows := j.flows, flagRx := j.flagRx
           chunks := j.chunks, sigSeen := j.sigSeen, rdmaSpd := j.rdmaSpd, conns := j.conns }

/-- The flow with a rank; a new one starts at PSN 0. -/
def Net.flow (n : Net) (r : Nat) : Flow := (n.flows.find? (fun f => f.rank == r)).getD ⟨r, 0, [], 0, [], 0, false, false⟩

/-- Replaces a flow. -/
def Net.setFlow (n : Net) (f : Flow) : Net := { n with flows := f :: n.flows.filter (fun g => g.rank != f.rank) }

/-- The PSNs received beyond the expected one join it as far as they follow. `fuel` bounds them. -/
def Flow.absorb : Nat → Flow → Flow
  | 0, f => f
  | fuel + 1, f =>
    if f.rxNext ∈ f.rxOoo then Flow.absorb fuel { f with rxNext := f.rxNext + 1, rxOoo := f.rxOoo.filter (· != f.rxNext) } else f

/-- A PSN is acknowledged from now on. -/
def Flow.take (f : Flow) (psn : Word) : Flow :=
  let d := (psn - f.rxNext).toNat
  if d = 0 then Flow.absorb f.rxOoo.length { f with rxNext := f.rxNext + 1 }
  else if d < 2 ^ 31 ∧ psn ∉ f.rxOoo then { f with rxOoo := psn :: f.rxOoo }
  else f

/-- A packet of this job to a rank, its body empty (R326). -/
def State.packet (s : State) (type rank : Nat) (stepw cmdw : Word) : Packet :=
  ⟨BitVec.ofNat 8 type, 1, s.job.tag, BitVec.ofNat 16 s.job.desc.rank, BitVec.ofNat 16 rank, stepw,
   cmdw, 0, 0, if s.cfg 0x0101 = 2 ∧ s.cfg 0x010C = 1 then 1 else 0, 0, 0, 0, 0, 0, []⟩

/-- The ports that exist (R317). -/
def State.nPorts (s : State) : Nat := if s.cfg 0x0101 = 1 then 2 else 4

/-- The ports that carry job traffic (R317). -/
def State.jobPorts (s : State) : Nat := if s.duoOn then 3 else s.nPorts

/-- A job address of a rank from the rank-group table: its own, or its second module's (R323). -/
def State.rankAddr (s : State) (r : Nat) (second : Bool) : List Byte :=
  (s.job.grpTable.drop (s.grp 16 8 + 48 * r + if second then 16 else 0)).take 16

/-- A packet as a frame to an address: each chunk on job port (chunk number mod number of job ports), tagged with NET_PCP,
from UDP port 49,152 + (chunk number mod 16,384) to NET_CPORT (R319, R320, R326). -/
def State.frameTo (s : State) (rank : Nat) (second : Bool) (p : Packet) : Frame :=
  ⟨rank, some (s.rankAddr rank second), p.chunk.toNat % s.jobPorts, s.cfg 0x0103, 49152 + p.chunk.toNat % 16384, s.cfg 0x0104, p⟩

/-- A packet as a frame to the partner, on the Duo link (R320, R346). -/
def State.frameDuo (s : State) (p : Packet) : Frame :=
  ⟨p.drank.toNat, none, 3, s.cfg 0x0103, 49152 + p.chunk.toNat % 16384, s.cfg 0x0104, p⟩

/-- The modules that a packet to a rank goes to: both of another Duo rank, else one (R341, R346). -/
def State.modulesOf (s : State) (rank : Nat) : List Nat :=
  if rank ≠ s.job.desc.rank ∧ bitAt (s.rankFlags rank) 1 = true then [0, 1] else [0]

/-- The frame of a packet to one module of a rank, this rank's own partner being reached on the Duo link. -/
def State.frameOf (s : State) (rank : Nat) (p : Packet) (module : Nat) : Frame :=
  if rank = s.job.desc.rank then s.frameDuo p else s.frameTo rank (module == 1) p

/-- The frames of a packet to a rank. -/
def State.framesOf (s : State) (rank : Nat) (p : Packet) : List Frame := (s.modulesOf rank).map (s.frameOf rank p)

/-- Puts a packet on the wire. Log entry 106: DESIGN CHOICE. -/
def State.emit (s : State) (rank : Nat) (p : Packet) : State :=
  { s with net := { s.net with tx := s.net.tx ++ s.framesOf rank p } }

/-- A packet that goes to a rank again goes to those of its modules that have not acknowledged it. -/
def State.emitAgain (s : State) (rank : Nat) (x : TxPkt) : State :=
  { s with net := { s.net with tx := s.net.tx
      ++ ((s.modulesOf rank).filter (fun m => decide (m ∉ x.acked))).map (s.frameOf rank x.pkt) } }

/-- Bytes of a packet in the retention reserve. -/
def pktSize (p : Packet) : Nat := 48 + p.payload.length

/-- Bytes the reserve holds (R321). -/
def State.retainMax (s : State) : Nat := s.cfg 0x010A * 0x800000

/-- Bytes kept. -/
def State.retained (s : State) : Nat := s.net.retain.foldl (fun n p => n + pktSize p.2) 0

/-- Keeps a copy of a DATA, FLAG or SIGNAL of a step or of the prologue; once a step's sends exceed the reserve, its
further sends are not kept (R344). -/
def State.keepCopy (s : State) (p : Packet) : State :=
  if s.net.unkept.any (fun u => u.1 == p.stepw) ∨ s.retainMax < s.retained + pktSize p then
    let u := (p.stepw, p.drank.toNat)
    { s with net := { s.net with retOvf := true, unkept := if u ∈ s.net.unkept then s.net.unkept else u :: s.net.unkept } }
  else { s with net := { s.net with retain := s.net.retain ++ [(p.stepw, p)] } }

/-- The unacknowledged packets that a sender may have on the wire: 256 KiB in each flow (R328). Log entry 56:
DEDUCED. -/
def sendWindow : Nat → List TxPkt → List TxPkt
  | _, [] => []
  | n, x :: r => if n + pktSize x.pkt ≤ 262144 then x :: sendWindow (n + pktSize x.pkt) r else []

/-- The step-relative word of a command (R244). -/
def State.cmdWord (s : State) (idx : Nat) : Word := BitVec.ofNat 32 (s.stepRel idx)

/-- The command in flight that the words of a packet name. -/
def State.wordFlight (s : State) (stepw cmdw : Word) : Option Flight :=
  s.job.flights.find? (fun f => s.stepWord f.idx == stepw && s.cmdWord f.idx == cmdw)

/-- The chunks of a command that are on the wire: rank, SEG, PART and chunk number. -/
def Net.onWire (n : Net) (stepw cmdw : Word) : List (Nat × Nat × Nat × Nat) :=
  (n.flows.flatMap (fun f => (f.unacked.filter (fun x =>
    x.sent && x.pkt.type == 1 && x.pkt.stepw == stepw && x.pkt.cmdw == cmdw)).map (fun x =>
      (f.rank, x.pkt.seg.toNat, x.pkt.part.toNat, x.pkt.chunk.toNat)))).eraseDups

/-- Whether a DATA packet waits for a tag: its command has NTAG chunks in flight, and this chunk is none of them (R160).
Log entry 145: DEDUCED. -/
def State.tagsOut (s : State) (rank : Nat) (p : Packet) : Bool :=
  p.type == 1 && (match s.wordFlight p.stepw p.cmdw with
    | some f =>
      let l := s.net.onWire p.stepw p.cmdw
      !l.contains (rank, p.seg.toNat, p.part.toNat, p.chunk.toNat) && decide (f.ntag ≤ l.length)
    | none => false)

/-- A packet of a flow has gone out. -/
def Net.markSent (n : Net) (rank : Nat) (psn : Word) : Net :=
  let f := n.flow rank
  n.setFlow { f with unacked := f.unacked.map (fun (x : TxPkt) => if x.pkt.psn = psn then { x with sent := true } else x) }

/-- A packet of a flow goes out, where it has not and a tag is free. -/
def State.sendOut (rank : Nat) (s : State) (x : TxPkt) : State :=
  if x.sent || s.tagsOut rank x.pkt then s
  else ({ s with net := s.net.markSent rank x.pkt.psn } : State).emit rank x.pkt

/-- Sends what a flow still holds, its window admits and the tags cover; nothing while a BUSY stands (R160, R328, R330).
Log entry 56: DEDUCED. -/
def State.flush (s : State) (rank : Nat) : State :=
  let f := s.net.flow rank
  if f.busy then s else (sendWindow 0 f.unacked).foldl (State.sendOut rank) s

/-- Every flow sends what it can. -/
def State.flushAll (s : State) : State := (s.net.flows.map (fun f => f.rank)).foldl State.flush s

/-- Sends a packet reliably: the flow's next PSN, held until acknowledged (R328). It goes out at once
unless the window is full or the receiver is BUSY (R330). -/
def State.send (s : State) (rank : Nat) (p : Packet) : State :=
  let f := s.net.flow rank
  let q := { p with psn := f.nextPsn }
  let t := { s with net := s.net.setFlow { f with nextPsn := f.nextPsn + 1, unacked := f.unacked ++ [(⟨q, 0, false, []⟩ : TxPkt)] } }
  (if p.type = 1 ∨ p.type = 3 ∨ p.type = 4 then t.keepCopy q else t).flush rank

/-- The step word after a step word; the prologue's is all ones and the job's first step follows it (R244). -/
def State.wordAfter (s : State) (w : Word) : Word := if w = 0xFFFFFFFF then s.job.stepBase else w + 1

/-! ### A Duo's loading digest (R260) -/

/-- The loading digest of R260. Log entry 139: DEDUCED. -/
def State.loadDigest (s : State) : Nat :=
  let d := s.job.desc
  pd61 s.key (leBytes 8 d.cls ++ leBytes 8 d.rank ++ leBytes 8 d.nrank ++ leBytes 8 d.cfgdig.toNat ++ leBytes 8 d.seed.toNat
    ++ leBytes 8 d.digkey.toNat ++ leBytes 8 d.patdig.toNat ++ leBytes 8 d.grpdig.toNat ++ leBytes 8 s.job.stepBase.toNat)

/-- A DUO packet to the partner; its PART says what it carries: 0 boundaries, 1 RDs, 2 the loading digest (R346). Log
entry 59: DESIGN CHOICE. -/
def State.sendDuo (s : State) (kind : Nat) (payload : List Byte) : State :=
  let r := s.job.desc.rank
  s.send r { s.packet 8 r s.curStepWord 0 with
    part := BitVec.ofNat 8 kind, len := BitVec.ofNat 16 payload.length, payload := payload }

/-- The partner's loading digest against this module's (R260). Log entry 139: DEDUCED. -/
def State.duoLoad (s : State) : State :=
  match s.duo.ptnLoad with
  | none => s
  | some d => if d.toNat = s.loadDigest then s else (s.ev 0xA012 s.loadDigest d.toNat).endLoad

/-- Whether the partner is ARMED with an equal loading digest, or there is none (R260). -/
def State.duoReady (s : State) : Bool :=
  !s.duoOn || (s.duo.ptnArmed && (match s.duo.ptnLoad with | some d => d.toNat == s.loadDigest | none => false))

/-- JOB_LOAD_COMPLETE ends with the exchange of loading digests in a Duo (R260). -/
def State.duoArmed (s : State) : State :=
  if s.duoOn && s.jobSt == .armed then (s.sendDuo 2 (leBytes 8 s.loadDigest)).duoLoad else s

/-! ### Pieces sent -/

/-- The packets of one chunk: at most 4,096 bytes each (R326). -/
def chunkPackets (p : Packet) : Nat → Nat → List Byte → List Packet
  | 0, _, _ => []
  | fuel + 1, k, bs =>
    let h := bs.take 4096
    { p with pkt := BitVec.ofNat 16 k, len := BitVec.ofNat 16 h.length, payload := h }
      :: (if bs.length ≤ 4096 then [] else chunkPackets p fuel (k + 1) (bs.drop 4096))

/-- The chunks of a byte string, 64 KiB each (R159). `fuel` bounds them. -/
def chunksOf : Nat → List Byte → List (List Byte)
  | 0, _ => []
  | fuel + 1, bs => if bs.isEmpty then [] else bs.take 65536 :: chunksOf fuel (bs.drop 65536)

/-- Chunks of `n` bytes. -/
def nChunks (n : Nat) : Nat := ceilDiv n 65536

/-- A byte string cut into its chunks. -/
def chunked (bs : List Byte) : List (List Byte) := chunksOf (nChunks bs.length) bs

/-- PD61 over bytes chunk by chunk, merged in order (R159, R361). -/
def State.pdChunks (s : State) (bs : List Byte) : Nat :=
  (chunked bs).foldl (fun d c => pdMerge s.key d (pd61 s.key c) (ceilDiv c.length 8)) 0

/-- Sends one piece of a COLL to a rank: its chunks are numbered from 0 within the piece. Log entry 53: DEDUCED. -/
def State.sendPiece (s : State) (rank : Nat) (stepw cmdw : Word) (seg part : Nat) (bs : List Byte) : State :=
  (((chunked bs).mapIdx (fun k c =>
    chunkPackets { s.packet 1 rank stepw cmdw with
      seg := BitVec.ofNat 16 seg, part := BitVec.ofNat 8 part, chunk := BitVec.ofNat 32 k
      cdig := BitVec.ofNat 64 (pd61 s.key c) } 17 0 c)).flatten).foldl (fun t p => t.send rank p) s

/-! ### Pieces received -/

/-- A piece of `len` bytes as far as it has arrived whole. -/
def State.piece (s : State) (idx rank seg part len : Nat) : Option (List Byte) :=
  let w := s.stepWord idx
  let cw := s.cmdWord idx
  let cs := (List.range (nChunks len)).map (fun k =>
    s.net.chunks.find? (fun c => c.whole && c.rank == rank && c.stepw == w && c.cmdw == cw && c.seg == seg && c.part == part && c.chunk == k))
  if cs.all Option.isSome then some ((cs.filterMap id).flatMap (fun c => (c.pkts.map (fun p => p.2)).flatten)) else none

/-- Bytes of one chunk held. -/
def ChunkRx.held (c : ChunkRx) : Nat := c.pkts.foldl (fun n p => n + p.2.length) 0

/-- What a member of a COLL works with: members, its position, element width, segment bounds. -/
structure CollCtx where
  ms : List Nat
  q : Nat
  f : Fmt
  cnt : Nat
  deriving DecidableEq, Repr

/-- The context of a COLL. -/
def State.collCtx (s : State) (c : CollCmd) : CollCtx :=
  let ms := (s.members c.group.toNat).getD []
  ⟨ms, posIn ms s.job.desc.rank, (tfOr c.fb).fmt, c.count.toNat⟩

/-- Members. -/
def CollCtx.n (x : CollCtx) : Nat := x.ms.length

/-- Bytes from the first and of the length of segment `q`. -/
def CollCtx.segBytes (x : CollCtx) (q : Nat) : Nat × Nat :=
  let (o, l) := segOf x.cnt x.n x.f.width q
  (o * x.f.width / 8, l * x.f.width / 8)

/-- Segment `q` of a contribution. -/
def CollCtx.seg (x : CollCtx) (q : Nat) (bs : List Byte) : List Byte := (bs.drop (x.segBytes q).1).take (x.segBytes q).2

/-- The length of a chunk of a COLL in flight; before its issue the receiver does not know it (R329, R332). Log
entry 55: DEDUCED. -/
def State.chunkWant (s : State) (c : ChunkRx) : Option Nat :=
  match s.wordFlight c.stepw c.cmdw with
  | some f =>
    match f.issued, f.cmd with
    | true, .coll x =>
      let v := s.collCtx x
      let n := if x.cop.toNat ≤ 2 then (v.segBytes (if c.part = 1 then posIn v.ms c.rank else v.q)).2 else rowBytes v.f v.cnt
      some (min 65536 (n - 65536 * c.chunk))
    | _, _ => none
  | none => none

/-- Whether a chunk has all its packets: they follow from 0, and the last is short or the sixteenth, or they complete
the digest or the chunk's known length. Log entry 55: DEDUCED. -/
def ChunkRx.full (c : ChunkRx) (good : Bool) (want : Option Nat) : Bool :=
  let n := c.pkts.length
  decide (c.pkts.map (fun p => p.1) = List.range n)
    && (good || n == 16 || want == some c.held || (match c.pkts.getLast? with | some p => decide (p.2.length < 4096) | none => false))

/-- An event of a received chunk (R161, R176, R329): it names the chunk's COLL where that is in flight. -/
def State.evChunk (s : State) (code : Nat) (c : ChunkRx) : State :=
  match s.wordFlight c.stepw c.cmdw with
  | some f => s.evCmd code f.cmd.hdr.lcore.toNat FieldRef.nil f.idx c.chunk 0
  | none => s.ev code c.chunk 0

/-- Puts a chunk in place of the one with its tags. -/
def Net.setChunk (n : Net) (d : ChunkRx) : Net :=
  { n with chunks := d :: n.chunks.filter (fun x =>
      !(x.rank == d.rank && x.stepw == d.stepw && x.cmdw == d.cmdw && x.seg == d.seg && x.part == d.part && x.chunk == d.chunk)) }

/-- A chunk as far as it has come, with the PSNs that are acknowledged from now on: those of its packets once it is whole
and its digest right. With a wrong digest they are not, so that they are sent again, up to three times; then the chunk is
dead (R161, R329). Log entry 55: DEDUCED. -/
def State.judge (s : State) (c : ChunkRx) : State × List Word :=
  let good := pd61 s.key ((c.pkts.map (fun p => p.2)).flatten) == c.cdig.toNat
  let put := fun (t : State) (d : ChunkRx) => { t with net := t.net.setChunk d }
  if !c.full good (s.chunkWant c) then (put s c, [])
  else if good then (put s { c with whole := true, psns := [] }, c.psns)
  else
    let t := s.evChunk 0x4011 c
    if c.tries + 1 < 4 then (put t { c with pkts := [], psns := [], tries := c.tries + 1 }, [])
    else (put (t.evChunk 0x4013 c) { c with whole := true, psns := [], tries := 4 }, c.psns)

/-- The chunks that came for a COLL before its issue are looked at again with their lengths known. Log entry 55:
DEDUCED. -/
def State.rejudge (s : State) (idx : Nat) : State :=
  (s.net.chunks.filter (fun c => !c.whole && !c.pkts.isEmpty && c.stepw == s.stepWord idx && c.cmdw == s.cmdWord idx)).foldl (fun t c =>
    let (u, ps) := t.judge c
    if ps.isEmpty then u else { u with net := u.net.setFlow (ps.foldl Flow.take (u.net.flow c.rank)) }) s

/-- Whether a chunk of a COLL has failed its last resend (R161, R329). -/
def State.collDead (s : State) (idx : Nat) : Bool :=
  s.net.chunks.any (fun c => c.stepw == s.stepWord idx && c.cmdw == s.cmdWord idx && decide (4 ≤ c.tries))

/-- Whether a chunk, if it is held at all, is not dead. -/
def notDead (c : Option ChunkRx) : Bool := c.all (fun x => decide (x.tries < 4))

/-- Whether a chunk is here whole. -/
def isHere (c : Option ChunkRx) : Bool := c.any (fun x => x.whole)

/-- 1 for every byte of a piece whose chunk `ok` admits. -/
def State.pieceMask (s : State) (ok : Option ChunkRx → Bool) (idx rank seg part len : Nat) : List Byte :=
  (List.range (nChunks len)).flatMap (fun k =>
    let c := s.net.chunks.find? (fun c => c.rank == rank && c.stepw == s.stepWord idx && c.cmdw == s.cmdWord idx && c.seg == seg
      && c.part == part && c.chunk == k)
    List.replicate (min 65536 (len - 65536 * k)) (if ok c then (1 : Byte) else 0))

/-- Every member's bytes of this member's own segment, its own from `mine`; none until all are here. -/
def State.ownParts (s : State) (idx : Nat) (x : CollCtx) (mine : List Byte) : Option (List (List Byte)) :=
  let len := (x.segBytes x.q).2
  let ps := x.ms.mapIdx (fun p r => if p = x.q then some (x.seg x.q mine) else s.piece idx r x.q 0 len)
  if ps.all Option.isSome then some (ps.filterMap id) else none

/-- The result of this member's own segment (R333). -/
def State.ownResult (s : State) (idx : Nat) (c : CollCmd) (mine : List Byte) : Option (List Byte × FlagWord) :=
  let x := s.collCtx c
  (s.ownParts idx x mine).map (fun ps => reduceSeg x.f (c.cop == 1) (segOf x.cnt x.n x.f.width x.q).2 ps)

/-- The bytes a COLL delivers once everything has arrived, with its sticky word (R331, R333). -/
def State.collResult (s : State) (idx : Nat) (c : CollCmd) (mine : List Byte) : Option (List Byte × FlagWord) :=
  let x := s.collCtx c
  let b := rowBytes x.f x.cnt
  let all := fun (l : List (Option (List Byte))) => if l.all Option.isSome then some ((l.filterMap id).flatten) else none
  match c.cop.toNat with
  | 0 | 1 =>
    match s.ownResult idx c mine with
    | none => none
    | some r =>
      (all (x.ms.mapIdx (fun p m => if p = x.q then some r.1 else s.piece idx m p 1 (x.segBytes p).2))).map (fun bs => (bs, r.2))
  | 2 => s.ownResult idx c mine
  | 3 => (all (x.ms.mapIdx (fun p m => if p = x.q then some mine else s.piece idx m p 0 b))).map (fun bs => (bs, 0))
  | _ => if x.q = 0 then some (mine, 0) else (s.piece idx (x.ms.getD 0 0) 0 0 b).map (fun bs => (bs, 0))

/-- Bytes joined place by place: 1 where all are 1. -/
def andMasks (n : Nat) (ms : List (List Byte)) : List Byte := ms.foldl (fun a b => (a.zip b).map (fun p => p.1 &&& p.2)) (List.replicate n 1)

/-- 1 for every byte of this member's own segment into which only chunks go that `ok` admits. -/
def State.ownMask (s : State) (ok : Option ChunkRx → Bool) (idx : Nat) (x : CollCtx) : List Byte :=
  let len := (x.segBytes x.q).2
  andMasks len ((x.ms.mapIdx (fun p r => if p = x.q then [] else [s.pieceMask ok idx r x.q 0 len])).flatten)

/-- 1 for every byte that a COLL delivers of which only chunks decide that `ok` admits (R161, R195). Log entry 41: DEDUCED. -/
def State.collMask (s : State) (ok : Option ChunkRx → Bool) (idx : Nat) (c : CollCmd) : List Byte :=
  let x := s.collCtx c
  let b := rowBytes x.f x.cnt
  match c.cop.toNat with
  | 0 | 1 => (x.ms.mapIdx (fun p m => if p = x.q then s.ownMask ok idx x else s.pieceMask ok idx m p 1 (x.segBytes p).2)).flatten
  | 2 => s.ownMask ok idx x
  | 3 => (x.ms.mapIdx (fun p m => if p = x.q then List.replicate b 1 else s.pieceMask ok idx m p 0 b)).flatten
  | _ => if x.q = 0 then List.replicate b 1 else s.pieceMask ok idx (x.ms.getD 0 0) 0 0 b

/-- The pieces a COLL sends at its issue: segment s of the contribution to its owner, or the whole
contribution to every other member (R332, R331). Log entry 53: DEDUCED. -/
def State.collSend (s : State) (idx : Nat) (c : CollCmd) (mine : List Byte) : State :=
  let x := s.collCtx c
  let w := s.stepWord idx
  let cw := s.cmdWord idx
  let others := (x.ms.mapIdx (fun p m => (p, m))).filter (fun pm => pm.1 != x.q)
  if c.cop.toNat ≤ 2 then others.foldl (fun t pm => t.sendPiece pm.2 w cw pm.1 0 (x.seg pm.1 mine)) s
  else if c.cop = 3 ∨ x.q = 0 then others.foldl (fun t pm => t.sendPiece pm.2 w cw x.q 0 mine) s
  else s

/-- Key under which a flight notes that its result has been sent. -/
def sentKey : Nat := 2 ^ 32

/-- An ALLREDUCE whose own segment is complete sends its result to every other member, once; it has none where a
dead chunk goes into it. Log entry 41: DEDUCED. -/
def State.collForward (s : State) (f : Flight) : State :=
  match f.cmd with
  | .coll c =>
    if f.issued && decide (c.cop.toNat ≤ 1) && decide (1 < (s.collCtx c).n) && (f.tries.lookup sentKey).isNone then
      let mine := (f.got.head?.map (fun g => g.2)).getD []
      match (s.ownResult f.idx c mine).filter (fun _ => (s.ownMask notDead f.idx (s.collCtx c)).all (fun m => m == 1)) with
      | none => s
      | some r =>
        let x := s.collCtx c
        let t := x.ms.foldl (fun u m =>
          if m = s.job.desc.rank then u else u.sendPiece m (s.stepWord f.idx) (s.cmdWord f.idx) x.q 1 r.1) s
        { t with job := { t.job with
            flights := t.job.flights.map (fun g => if g.idx = f.idx then { g with tries := (sentKey, 1) :: g.tries } else g) } }
    else s
  | _ => s

/-- Every COLL in flight forwards what it can. -/
def State.collProgress (s : State) : State := s.job.flights.foldl State.collForward s

end Sys2Proof.Machine
end

