-- ==== Sys2Proof/Machine/Issue.lean ====
section
/-! DEFINITION. What happens at a command's issue beat: its effect as a value, its place in flight, the
control commands (R219, R225, R274, R306, R392, R440), and command boundaries (R412). -/
namespace Sys2Proof.Machine

/-! ### Effects at issue -/

/-- Chunks that a command waits for from outside. -/
def State.chunkNeed (s : State) (cmd : Cmd) : Nat :=
  match cmd with
  | .move c =>
    if c.form = 3 then nChunks (packBound c.esize (c.rows * c.rowbytes.toNat))
    else nChunks (((s.sides cmd).filter (fun x => !x.wr && x.outside)).foldl (fun n x => n + x.bytes) 0)
  | _ => nChunks (((s.sides cmd).filter (fun x => !x.wr && x.outside)).foldl (fun n x => n + x.bytes) 0)

/-- The effect that a command has from the values at its issue; nothing yet where its data comes from
outside or from other members. Log entry 140: DEDUCED. -/
def State.effAt (s : State) (idx own : Nat) (cmd : Cmd) : Eff :=
  if s.fromOutside cmd then Eff.none
  else
    match cmd with
    | .move c => s.moveEff idx own c (s.moveSrc idx own c)
    | .gath c => s.gathEff idx own c
    | .dig c => s.digEff own c (((s.sides cmd).take 1).flatMap (s.readSide idx own))
    | .coll c =>
      if bitAt s.job.rplCtl.toNat 2 then Eff.none
      else if (s.collCtx c).n ≤ 1 then s.collAlone own c (s.contribution idx own c) else Eff.none
    | _ => s.computeEff idx own cmd

/-- A command placed in flight at its issue beat `i`, with completion beat `c` and the beats `b` of it lost to
banks. Log entry 138: DESIGN CHOICE. -/
def State.launch (s : State) (x : Flight) (i c : Nat) (b : Loss) : Flight :=
  let own := x.core.getD 0
  let (r, w) := s.feet x.idx own x.cmd
  let lat := s.latency x.idx own x.cmd
  let occ := match x.queue with | .mxq | .vxq | .rdq => computeOcc (s.reader x.idx own) x.cmd | _ => 1
  let (rw, ww) := s.windows x.idx own x.cmd i c b
  let split := fun (ws : List Win) => ws.flatMap (Win.split (s.heldBefore x.idx))
  let wins := (split rw, split ww)
  let e := s.effAt x.idx own x.cmd
  let last := match x.queue with
    | .mvq => wins.1.foldl (fun m v => max m v.last) i
    | .ctl => i
    | _ => i + occ - 1
  { x with
    issued := true, issue := i, compl := c, occ := occ, reads := r, writes := w, dst := s.dstRuns x.cmd, lastSpd := last
    got := match x.cmd with | .move m => if m.form = 4 && !s.fromOutside x.cmd then [(srcKey, s.moveSrc x.idx own m)] else x.got | _ => x.got
    wins := wins.1 ++ wins.2
    ilk := s.slips x i c b lat
    eff := s.kept x e.writes, flags := e.flags, fm := e.fm, aux := BitVec.ofNat 64 e.aux
    need := if s.fromOutside x.cmd then s.chunkNeed x.cmd else 0, took := s.linesTaken x.idx own x.cmd
    persWr := (s.persPage x.cmd).isSome, pcompl := x.planned + lat, sure := true
    sums := match x.cmd with | .mma m => mmaSums (s.reader x.idx own) m (tfOr m.afb) (tfOr m.bfb) | _ => x.sums
    w16 := match x.cmd with | .vprog c => (readBlock (s.reader x.idx own) c.paddr.toNat).w16 | _ => false
    covers := match x.cmd with
      | .coll c => if (s.collCtx c).n ≤ 1 || bitAt s.job.rplCtl.toNat 2 then [] else resCovers (s.reader x.idx own) x.cmd
      | _ => resCovers (s.reader x.idx own) x.cmd }

/-- Replaces a command in flight. -/
def State.setFlight (s : State) (f : Flight) : State :=
  { s with job := { s.job with flights := s.job.flights.map (fun g => if g.idx = f.idx then f else g) } }

/-- The highest index issued; with command 0, Drone and WALL of the prologue's record (R250,
R252). -/
def State.noteIssued (s : State) (f : Flight) : State :=
  let j := s.job.jrn
  let jr := if f.idx = 0 then { j with stepDrone := f.issue, stepWall := s.ptp.wall } else j
  { s with job := { s.job with hi := max s.job.hi (f.idx + 1), jrn := jr } }

/-! ### Side effects of an issue -/

/-- TOUCH bits set by a write through SHD: every Cast page that holds a byte of its rows (R297). -/
def State.touchShd (s : State) (cmd : Cmd) : State :=
  let ps := ((s.sides cmd).filter (fun x => x.wr && x.sp == 2 && aKind x.addr == .shd)).flatMap (fun x =>
    (List.range x.rows).flatMap (fun r => pagesIn (aOff x.addr + r * x.pitch) x.len))
  { s with
    cast := { s.cast with touch := ps.foldl (fun l p => insertNat p l) s.cast.touch }
    rcv := { s.rcv with shdAfter := s.rcv.shdAfter || (!ps.isEmpty && s.job.step.isSome && decide ((s.job.step.getD 0) < s.job.commits)) } }

/-- A MOVE into a lookup-table store makes generation g + 1 due at the next boundary (R109). -/
def State.noteLut (s : State) (f : Flight) : State :=
  f.writes.foldl (fun t w => match w.loc with
    | .core k => if w.hull.any (fun h => decide (0x18800 ≤ h.2)) then t.setCore k (fun c => { c with lutRdy := true }) else t
    | _ => t) s

/-- Puts an RDMA operation of a chunk on the connection toward a rank, on UDP port 4791 and with JTAG as its remote key
(R320, R336): on job port (chunk number mod number of job ports), tagged with NET_PCP (R319). -/
def State.sendRoce (s : State) (chunk rank : Nat) (core : Option Nat) (addr len : Nat) (bytes : Option (List Byte)) : State :=
  { s with net := { s.net with rdma := s.net.rdma
      ++ [⟨rank, 0x10000 + rank, s.job.tag, 4791, chunk % s.jobPorts, s.cfg 0x0103, core, addr, len, bytes⟩] } }

/-- The runs of a side's source bytes that chunk `k` takes, as address and length (R159). -/
def Side.chunkRuns (x : Side) (k : Nat) : List (Nat × Nat) :=
  (List.range x.rows).filterMap (fun r =>
    let lo := max (r * x.len) (65536 * k)
    let hi := min ((r + 1) * x.len) (65536 * (k + 1))
    if lo < hi then some (x.addr + r * x.pitch + (lo - r * x.len), hi - lo) else none)

/-- Asks a peer for chunk `k` of a command's source. -/
def State.askChunk (s : State) (f : Flight) (k : Nat) : State :=
  ((s.sides f.cmd).filter (fun x => !x.wr && x.sp == 4)).foldl (fun t x => (x.chunkRuns k).foldl (fun u r =>
    u.sendRoce k x.ext.rank.toNat (if x.ext.psp then some x.ext.lcore.toNat else none) r.1 r.2 none) t) s

/-- The first chunks of a command's source are asked for, NTAG at most (R160). -/
def State.askFirst (s : State) (f : Flight) : State :=
  if s.fromSpace f = 4 then (List.range (min f.ntag f.need)).foldl (fun u k => u.askChunk f k) s else s

/-- Once one chunk more has come or is given up, the next one is asked for (R160). -/
def State.askNext (s : State) (f : Flight) : State :=
  let k := f.ntag + f.got.length + f.dead.length - 1
  if s.fromSpace f = 4 ∧ k < f.need then s.askChunk f k else s

/-- The chunk of the `j`-th byte that a command delivers: a TRANSPOSE's chunks count the bytes of its source (R159). -/
def chunkOfByte (c : Cmd) (j : Nat) : Nat :=
  match c with
  | .move m =>
    if m.form = 1 then
      let es := esizeOf m.esize
      let row := m.rows * es
      (j % row / es * m.rowbytes.toNat + j / row * es) / 65536
    else j / 65536
  | _ => j / 65536

/-- Bytes from address `a` on, the `o`-th and the following that a command delivers, cut into the runs of its chunks. -/
def cutChunks (key : Nat → Nat) : Nat → Nat → List Byte → List (Nat × Nat × List Byte)
  | _, _, [] => []
  | o, a, b :: bs =>
    match cutChunks key (o + 1) (a + 1) bs with
    | (k, e, cs) :: r => if key o = k then (k, a, b :: cs) :: r else (key o, a, [b]) :: (k, e, cs) :: r
    | [] => [(key o, a, [b])]

/-- What a command writes to a peer, by chunks: chunk, place, address and bytes. -/
def Flight.peerRuns (f : Flight) : List (Nat × Nat × Option Nat × Nat × List Byte) :=
  (f.eff.foldl (fun (acc : Nat × List (Nat × Nat × Option Nat × Nat × List Byte)) w =>
    (acc.1 + w.bytes.length, match w.loc with
      | .peer r c => acc.2 ++ (cutChunks (chunkOfByte f.cmd) acc.1 w.addr w.bytes).map (fun x => (x.1, r, c, x.2.1, x.2.2))
      | _ => acc.2)) (0, [])).2

/-- The chunks that a command writes to a peer. -/
def Flight.peerChunks (f : Flight) : Nat :=
  nChunks ((f.eff.filter (fun w => match w.loc with | .peer _ _ => true | _ => false)).foldl (fun n w => n + w.bytes.length) 0)

/-- Writes a chunk to its peer. -/
def State.sendChunk (s : State) (f : Flight) (k : Nat) : State :=
  (f.peerRuns.filter (fun x => x.1 == k)).foldl (fun t x =>
    t.sendRoce k x.2.1 x.2.2.1 x.2.2.2.1 x.2.2.2.2.length (some x.2.2.2.2)) s

/-- The chunks to a peer that go out next, NTAG of them at most; `acks` counts those not yet acknowledged (R160). -/
def State.sendChunks (s : State) (f : Flight) : State :=
  ((List.range f.peerChunks).filter (fun k => decide (f.peerChunks ≤ k + f.acks ∧ k + f.acks < f.peerChunks + f.ntag))).foldl
    (fun t k => t.sendChunk f k) s

/-- Reads from a peer and writes to one leave chunk by chunk, NTAG in flight at most; the writes wait for their
acknowledgement (R160, R319, R336, R339). Log entry 145: DEDUCED. -/
def State.leaveForPeer (s : State) (f : Flight) : State :=
  let t := s.askFirst f
  let g := { f with acks := f.peerChunks }
  if g.acks = 0 then t else (t.sendChunks g).setFlight g

/-- A CUR alias as the address of a DIG. -/
def digCur (c : DigCmd) : Bool := c.space == 2 && aKind c.addr.toNat == .cur

/-- Puts a command's digest among the step's, by command index: index, digest, words. -/
def insDig (d : Nat × Nat × Nat) : List (Nat × Nat × Nat) → List (Nat × Nat × Nat)
  | [] => [d]
  | x :: xs => if x.1 ≤ d.1 then x :: insDig d xs else d :: x :: xs

/-- Digests merged in ascending command index; 0 where there is none (R366). -/
def mergeDigs (k : Nat) : List (Nat × Nat × Nat) → DWord
  | [] => 0
  | d :: ds => BitVec.ofNat 64 (ds.foldl (fun h x => pdMerge k h x.2.1 x.2.2) d.2.1)

/-- A digest of a DIG with JRN = 1: its 0x12 entry (R252) and the step's merged weight digest (R366). -/
def State.noteDig (s : State) (f : Flight) (c : DigCmd) (d : Nat) : State :=
  if !c.jrn then s
  else
    let t := s.jAdd (s.jCmd 0x12 f.cmd.hdr.lcore.toNat 0 f.idx 0 d)
    if digCur c then
      { t with job := { t.job with wdgs := insDig (f.idx, d, c.rows * c.rowbytes.toNat / 8) t.job.wdgs } }
    else t

/-- A COLL's contribution: digest, finite flag, 0x13 entry, merged contribution digest, and what it sends
(R334, R366, R259). -/
def State.noteColl (s : State) (f : Flight) (c : CollCmd) : State :=
  let own := f.core.getD 0
  let mine := s.contribution f.idx own c
  let d := s.pdChunks mine
  let fin := !mine.isEmpty && finFlag (tfOr c.fb).fmt c.count.toNat mine
  let t := s.jAdd (s.jCmd 0x13 f.cmd.hdr.lcore.toNat (if fin then 1 else 0) f.idx mine.length d)
  let j := t.job
  let t := { t with job := { j with
    dec := { j.dec with colFlag := j.dec.colFlag || fin }
    csds := if c.cop.toNat ≤ 2 then insDig (f.idx, d, ceilDiv mine.length 8) j.csds else j.csds } }
  if (t.collCtx c).n ≤ 1 || bitAt t.job.rplCtl.toNat 2 then t
  else (((t.setFlight { f with got := [(0, mine)] }).collSend f.idx c mine).rejudge f.idx).collProgress

/-- A shard MOVE opens the load and finds its entry (R303, R304): no match raises 0x4015, transfers
nothing and marks CKF; a bad manifest header fails it with reason 4. -/
def State.noteShard (s : State) (f : Flight) (c : MoveCmd) : State :=
  if !c.shard then s
  else
    let t := s.openLoad
    let off := aOff c.daddr.toNat
    let len := c.rows * c.rowbytes.toNat
    match t.findShard off len with
    | some _ => if t.cast.badHdr then t.setFlight ({ f with need := 0, ckf := true }.mark reasonKey 4) else t
    | none => (t.evCmd 0x4015 f.cmd.hdr.lcore.toNat FieldRef.nil f.idx off len).setFlight { f with need := 0, ckf := true }

/-- What a move-class command does to the rest of the machine at its issue. Log entry 28: DEDUCED. -/
def State.noteMove (s : State) (f : Flight) : State :=
  let t := ((s.touchShd f.cmd).noteLut f).leaveForPeer f
  match f.cmd with
  | .move c => t.noteShard f c
  | .dig c => if s.fromOutside f.cmd then t else t.noteDig f c f.aux.toNat
  | .coll c => t.noteColl f c
  | _ => t

/-- The 0x10 entry of a pass, at its first command (R252). Log entry 26: DEDUCED. -/
def State.notePass (s : State) (f : Flight) : State :=
  match f.pass with
  | none => s
  | some (n, p, d) => s.jAdd (s.jCmd 0x10 0xFF n f.idx p d.toNat)

/-! ### Command boundaries (R412) -/

/-- Whether a command that would issue now is a command boundary. -/
def State.isBoundary (s : State) (x : Flight) : Bool := s.job.flights.all (fun g => decide (x.idx ≤ g.idx))

/-- The largest distance between boundaries (CKM_PREMAX). -/
def State.noteBoundary (s : State) (i : Nat) : State :=
  { s with rcv := { s.rcv with
      preMax := BitVec.ofNat 32 (max s.rcv.preMax.toNat (min ((s.rcv.lastBnd.map (fun b => i - b)).getD 0) (2 ^ 32 - 1)))
      lastBnd := some i } }

/-- Whether a PAUSE or a pre-emption waits for the next command boundary (R412). -/
def State.asked (s : State) : Bool := s.job.pausePend || s.job.preempt

/-- The overrun of a slice, in µs, at the grant at command `x` of the request that its end made (R421). -/
def State.sliceOverrun (s : State) (x : Nat) : State :=
  match s.rcv.sliceAsk, s.rcv.sliceEnd with
  | true, some w =>
    let n := (s.ptp.wall - w) / 1000
    let t := { s with rcv := { s.rcv with overrun := BitVec.ofNat 32 (satAdd 32 s.rcv.overrun.toNat n), sliceEnd := none, sliceAsk := false } }
    t.ev 0x2050 n x
  | _, _ => s

/-- A waiting PAUSE or pre-emption is granted before command `x`: the job is PAUSED and keeps its beat (R412); a
pre-emption waits for its SAVE (R414). -/
def State.grant (s : State) (x : Nat) : State :=
  let t := if s.job.preempt then s.sliceOverrun x else s
  ({ t with job := { t.job with pausePend := false, saving := t.job.preempt, preempt := false } }).setJob .paused

/-! ### Control commands -/

/-- A WAIT's condition (R219). -/
def State.waitMet (s : State) (c : WaitCmd) : Bool :=
  decide ((s.job.sigs.getD c.ctr.toNat 0 - c.value).toNat < 2 ^ 31)

/-- Whether the copies of a step word have been released: those of a step when the second STEP after it issues, the
prologue's, which step 0 follows, with STEP 1 (R344). -/
def State.released (s : State) (w : Word) : Bool :=
  match s.job.step with
  | none => false
  | some n => if w = 0xFFFFFFFF then decide (1 ≤ n) else decide (2 ≤ (s.curStepWord - w).toNat ∧ (s.curStepWord - w).toNat < 2 ^ 31)

/-- The retention of steps that have been released (R344). -/
def State.releaseRetained (s : State) : State :=
  let keep := fun (w : Word) => !s.released w
  let u := s.net.unkept.filter (fun u => keep u.1)
  { s with net := { s.net with retain := s.net.retain.filter (fun p => keep p.1), unkept := u, retOvf := !u.isEmpty } }

/-- The resume record of R391, with the tables a rejoin puts back. -/
def State.resumeAt (s : State) (x : Flight) : Resume :=
  ⟨s.curStepWord, x.idx, s.job.step, s.job.frame, x.pos, s.job.sigs, s.pat.gen, s.adt.gen, s.pat.cur, s.adt.cur,
   s.cast, s.job.dec, s.cores.map (fun k => (k.lutCur, k.lutNext, k.lutGen, k.lutRdy)), x.cmd.hdr.off.toNat⟩

/-- Whether the verification of R400 falls due: step 1's STEP in a verifying job, step 0's records formed. -/
def State.verifies (s : State) : Bool := s.job.verifying && s.job.step == some 0 && s.job.jrn.closed && !s.job.verified

/-- The 0x12 entries of a list: RIDX and digest. -/
def digsOf (es : List JEntry) : List (DWord × DWord) :=
  (es.filter (fun e => e.etype == 0x12)).map (fun e => (e.ridx, e.dig))

/-- The entries of the records in a byte string. `fuel` bounds the records. -/
def entriesIn : Nat → List Byte → List JEntry
  | 0, _ => []
  | fuel + 1, bs =>
    if bs.length < 64 then []
    else
      let n := leOf ((bs.drop 2).take 2)
      let len := leOf ((bs.drop 4).take 4)
      (List.range n).map (fun i => entryOf ((bs.drop (64 + 32 * i)).take 32)) ++ entriesIn fuel (bs.drop (max 64 len))

/-- The first RIDX at which two digest lists differ. -/
def firstDiff : List (DWord × DWord) → List (DWord × DWord) → DWord
  | a :: as, b :: bs => if a = b then firstDiff as bs else if a.1.toNat ≤ b.1.toNat then a.1 else b.1
  | a :: _, [] => a.1
  | [], b :: _ => b.1
  | [], [] => noIdx

/-- The verification of a restore at step 1's STEP (R400). -/
def State.verifyRestore (s : State) (idx : Nat) : State :=
  let mine := digsOf s.rcv.last
  let ref := digsOf (entriesIn (s.mqt.rstLen / 64 + 1) (s.hbm.read (s.reserveBase 0 * pageSize) s.mqt.rstLen))
  let w := (s.mqt.rstHdr.map (fun h => h.stepw.toNat)).getD 0
  let s := { s with job := { s.job with verified := true } }
  if mine = ref ∧ !ref.isEmpty then
    (({ s with mqt := { s.mqt with rstAcc := true } }).ev 0xA043 w 0).irq 4
  else
    let at_ := if ref.isEmpty then noIdx else firstDiff mine ref
    let t := (({ s with mqt := { s.mqt with rstMis := true } }).evCmd 0xA044 0xFF FieldRef.nil idx w at_.toNat).irq 4
    t.stopAt idx 0xA044

/-- The control record of a die's SAVE area takes the resume record, or a parked job's registers (R388, R391). The
spec gives its contents and not its layout: what its 4 KiB hold as bytes is free. Log entry 48: DESIGN CHOICE. -/
def State.latchCtl (s : State) (die : Nat) : State :=
  { s with mqt := { s.mqt with ctl := s.mqt.ctl.set die (some s.free) }, free := s.free + 4096 }

/-- The step that a STEP opens (R225, R248, R252, R391). Log entry 24: DEDUCED. -/
def State.beginStep (s : State) (x : Flight) (i : Nat) : State :=
  let j := s.job
  let n := match j.step with | some k => k + 1 | none => 0
  let t := { s with job := { j with
    step := some n, stepIdx := x.idx, steps := x.idx :: j.steps, frame := i, phase := 1
    csds := [], wdgs := [], dec := { j.dec with colFlag := false }, since := [] } }
  let t := t.openStep
  let t := (t.tableEntries x.idx).foldl State.jAdd t
  let t := t.releaseRetained
  let caught := match t.rcv.replayTo with | some m => decide (m ≤ x.idx) | none => false
  let t := if caught then { t with rcv := { t.rcv with replayTo := none, kept := [] } } else t
  let t := { t with rcv := { t.rcv with resume := some (t.resumeAt x), shdAfter := false, adds := [] } }
  (t.latchCtl 0).store ⟨.hbm, t.dieRecord 0 + 0xB0000, castRecord t.cast t.castPages⟩

/-- A STEP or MUTE END closes the step's records, MUTE END being its last command; it waits while one
lacks room (R249). Log entry 24: DEDUCED. -/
def State.closeFor (s : State) (cut : Bool) (x : Flight) (i : Nat) : State :=
  let first := !s.job.jrn.closed
  let t := (s.closeStep cut i (x.idx - s.job.stepIdx + (if x.cmd.isEnd then 1 else 0)) (some x.idx)).journalOut
  if first && !t.job.jrn.waiting.isEmpty then t.irq 3 else t

/-- The decide block read and the local flag formed, kept beside the peers' and sent (R274, steps 1 and
2; R366). L, FIN, WAT and COL stand in AUX until the outcome. Log entry 69: DEDUCED. -/
def State.formFlag (s : State) (f : Flight) (c : DecideCmd) : State :=
  let rd := s.reader f.idx (s.logical c.fcore.toNat)
  let bad := fun (w : Nat) => w != 0 && w != 0x80000000
  let fin := bad (leNat rd c.faddr.toNat 4)
  let wat := bad (leNat rd (c.faddr.toNat + 4) 4)
  let col := s.job.dec.colFlag
  let l := fin || wat || col
  let bit := fun (b : Bool) (n : Nat) => if b then n else 0
  let f := { f with aux := BitVec.ofNat 64 (bit l 1 + bit fin 2 + bit wat 4 + bit col 8) }
  let t := s.setFlight f
  let j := t.job
  let csd := mergeDigs t.key j.csds
  let wdg := mergeDigs t.key j.wdgs
  let mine : FlagRx := ⟨j.desc.rank, t.stepWord f.idx, l, csd, j.csds.length, j.wdgs.length, wdg⟩
  let body := leBytes 8 csd.toNat ++ leBytes 4 j.csds.length ++ leBytes 4 j.wdgs.length ++ leBytes 8 wdg.toNat ++ leBytes 8 0
  let t := { t with job := { j with phase := 3 }, net := { t.net with flagRx := mine :: t.net.flagRx } }
  let t := t.setFlight { f with got := [(0, leBytes 8 (bit l 1) ++ body)] }
  let ms := ((t.members c.group.toNat).getD []).filter (· != t.job.desc.rank)
  let p := { t.packet 3 0 (t.stepWord f.idx) (t.cmdWord f.idx) with
    seg := BitVec.ofNat 16 (posIn ((t.members c.group.toNat).getD []) t.job.desc.rank)
    cdig := BitVec.ofNat 64 (bit l 1), len := 32
    payload := body }
  if t.job.desc.nrank ≤ 1 then t
  else ms.foldl (fun u r => u.send r { p with drank := BitVec.ofNat 16 r }) t

/-- A PHASE's effect falls due LEAD beats after its issue, replacing one still pending (R440); an announced class
goes to the regulators at once (R441). -/
def State.notePhase (s : State) (i : Nat) (c : PhaseCmd) : State :=
  { s with pwr := { s.pwr with
      phase := some ⟨i + c.lead.toNat, c.opt.toNat, c.iclass.toNat⟩
      vrcls := if s.cfg 0x0403 = 0 then c.iclass.toNat else s.pwr.vrcls } }

/-! ### SNAP (R392 to R394) -/

/-- `n` bytes of host memory. -/
def hostBytes (m : HostMem) (a n : Nat) : List Byte := (List.range n).map (fun i => (m.lookup (a + i)).getD 0)

/-- A drain target entry (R390). -/
def targetOf (bs : List Byte) : DrainTarget :=
  let v := fun o n => leOf ((bs.drop o).take n)
  { kind := BitVec.ofNat 8 (v 0 1), qpn := BitVec.ofNat 32 (v 4 4), raddr := (bs.drop 8).take 16
    base := BitVec.ofNat 64 (v 24 8), len := BitVec.ofNat 64 (v 32 8), rkey := BitVec.ofNat 32 (v 40 4) }

/-- The drain target that the device reads at MQT_TGT for entry `i` (R390). -/
def State.readTarget (s : State) (m : HostMem) (i : Nat) : DrainTarget :=
  targetOf (hostBytes m (s.mqt.tgtHi.toNat * 2 ^ 32 + s.mqt.tgtLo.toNat + 64 * i) 64)

/-- The RoCEv2 path of entry `i` set up for a target (R390): what the device wrote elsewhere lies elsewhere. -/
def State.openPath (s : State) (i : Nat) (t : DrainTarget) : State :=
  if t.kind = 1 then
    { s with mqt := { s.mqt with remote := upd s.mqt.remote i (fun p =>
        ⟨p.qp, t.qpn, t.raddr, t.rkey, 0, if p.qpn = t.qpn ∧ p.raddr = t.raddr ∧ p.rkey = t.rkey then p.mem else []⟩) } }
  else s

/-- The length of an epoch image with its largest step record (R397). -/
def imageLen (np : Nat) : Nat := imageDir np + np * pageSize + 0x1000000

/-- The physical page that CUR resolves to for each Cast page, ascending. -/
def State.captured (s : State) : List Nat :=
  let a := ((List.range s.castPages).filter (fun p => !s.castX p)).map (s.castPage false)
  let b := ((List.range s.castPages).filter (fun p => s.castX p)).map (s.castPage true)
  if s.cfg 0x0502 < s.cfg 0x0503 then a ++ b else b ++ a

/-- SNAP at its issue beat with the target entry that it reads (R392). -/
def State.snapAt (s : State) (f : Flight) (c : SnapCmd) (tgt : DrainTarget) : State :=
  let w : Word := match s.job.step with | some _ => s.curStepWord | none => s.job.stepBase
  let t := s.jAdd (s.jCmd 0x1B 0xFF c.epoch.toNat f.idx 0 0)
  match t.mqt.epoch with
  | some e => t.evCmd 0xA042 0xFF FieldRef.nil f.idx c.epoch.toNat e.epoch.toNat
  | none =>
    if tgt.len.toNat < imageLen t.castPages ∨ 1 < tgt.kind.toNat then
      let t := { t with mqt := { t.mqt with lastEpoch := c.epoch, lastTgt := c.dtgt.toNat % 4, lastDone := false, lastFail := true } }
      (t.evCmd 0xA047 0xFF FieldRef.nil f.idx c.epoch.toNat 6).irq 4
    else
      let ps := t.captured
      let d := t.job.desc
      let e : Epoch := ⟨c.epoch, w, c.dtgt.toNat % 4, tgt, castRecord t.cast t.castPages, t.key, d.rank, d.nrank,
        ps, [], [], [], 0, false, false, .job⟩
      let t := t.openPath e.tgt tgt
      let t := { t with wp := ps, mqt := { t.mqt with epoch := some e } }
      let t := t.toTarget e 0x1000 e.castRec.length (cellsOf e.castRec) true
      (t.evCmd 0xA040 0xFF FieldRef.nil f.idx c.epoch.toNat w.toNat).irq 4

/-! ### One issue -/

/-- Whether a command still waits for chunks from the host, each of which brings an entry to the step's records. -/
def State.owesChunks (s : State) (f : Flight) : Bool :=
  f.issued && f.need != 0 && s.fromSpace f == 3 && !s.arrived f

/-- Whether a step's records cannot be formed yet. -/
def State.closeBlocked (s : State) (x : Flight) : Bool :=
  !s.job.jrn.closed && s.job.flights.any (fun g => decide (g.idx < x.idx) && s.owesChunks g)

/-- Whether a command cannot issue at its beat yet: a WAIT whose condition does not hold, a SNAP that has
to read its target entry, a closing step without journal room or without the host chunks of commands issued before it,
whose entries its records hold (R253). Log entry 22: DEDUCED. Log entry 27: DEDUCED. -/
def State.issueBlocked (s : State) (x : Flight) : Bool :=
  match x.cmd with
  | .wait c => !s.waitMet c
  | .stepc _ | .mute _ false => !s.job.jrn.waiting.isEmpty || s.closeBlocked x
  | .snap _ => s.mqt.epoch.isNone
  | _ => false

/-- The state after a command's control effect at its issue. A SNAP that issues here finds an epoch open;
one that opens an epoch issues with the entry it reads (`State.snapIssue`). -/
def State.ctlIssue (s : State) (f : Flight) (i : Nat) : State :=
  match f.cmd with
  | .phase c => s.notePhase i c
  | .decide c => s.formFlag f c
  | .stepc _ => s.beginStep f i
  | .snap c => s.snapAt f c ⟨0, 0, [], 0, 0, 0⟩
  | _ => s

/-- A command issues at beat `i`: it is put in flight with its effect, and commands placed later give way to its
windows. -/
def State.goIssue (s : State) (x : Flight) (i c : Nat) (b : Loss) : State :=
  let f := s.launch x i c b
  let t := (((s.setFlight f).press f).giveWay f.idx).noteIssued f
  match f.queue with
  | .mvq => (t.notePass f).noteMove f
  | .ctl => if f.cmd.isEnd then t else (t.ctlIssue f i).notePass f
  | _ => t.notePass f

/-- A SNAP that waits for its target entry issues with it: `host` is what host memory holds. -/
def State.snapIssue (s : State) (host : HostMem) : State :=
  match s.job.flights.find? (fun f => !f.issued && (match f.cmd with | .snap _ => true | _ => false)) with
  | some x =>
    match x.cmd, s.place x with
    | .snap c, some (i, e, b) =>
      if i ≤ s.drn.beat ∧ s.jobSt = .running then
        let f := s.launch x i e b
        (((if s.isBoundary x then s.noteBoundary i else s).setFlight f |>.noteIssued f).snapAt f c (s.readTarget host (c.dtgt.toNat % 4))).notePass f
      else s
    | _, _ => s
  | none => s

/-- The COMMIT's own check at its issue (R306). Log entry 22: DEDUCED. -/
def State.commitBad (s : State) (x : Flight) : Bool :=
  match x.cmd with
  | .commit _ => !s.skipOf x.idx && s.loadIncomplete
  | _ => false

/-- A command at its issue beat: a boundary grants what waits, a failed check stops the job, and else it
issues. True: the machine cannot pass this beat yet. -/
def State.issueNow (s : State) (x : Flight) (i c : Nat) (b : Loss) : State × Bool :=
  let own := x.core.getD 0
  if s.isBoundary x && s.asked then ((s.noteBoundary i).grant x.idx, true)
  else
    match s.chkIssue x.idx own x.cmd with
    | some e => (s.failCheck x.idx x.cmd.hdr.lcore.toNat e, false)
    | none =>
      if s.commitBad x then
        let (p, n) := s.loadLeft
        let t := s.evCmd 0x9006 0xFF FieldRef.nil x.idx (s.stepWord x.idx).toNat (min n 0xFFFF * 65536 + min p 0xFFFF)
        (t.stopAt x.idx 0x9006, false)
      else
        let conly := bitAt s.job.rplCtl.toNat 2 && (x.part == .compute || x.part == .exchange)
        let t := if s.closeBlocked x then s else match x.cmd with
          | .stepc _ => s.closeFor false x i
          | .mute _ false => (if s.job.jrn.closed then s else s.notePass x).closeFor conly x i
          | _ => s
        let t := match x.cmd with
          | .stepc _ => if t.verifies && t.job.jrn.waiting.isEmpty then t.verifyRestore x.idx else t
          | _ => t
        if t.job.stop.isSome && !s.job.stop.isSome then (t.stopAt ((t.job.stop.map (fun y => y.idx)).getD x.idx) ((t.job.stop.map (fun y => y.code)).getD 0), false)
        else if t.issueBlocked x then (t, true)
        else ((if s.isBoundary x then t.noteBoundary i else t).goIssue x i c b, false)

end Sys2Proof.Machine
end

