-- ==== Sys2Proof/Machine/Retire.lean ====
section
/-! DEFINITION. Retirement: what becomes visible at a completion beat (R182), transfers from outside (R161,
R304), the outcomes of DECIDE (R274 to R276, R369 to R372) and COMMIT (R298, R306), and Duo boundaries
(R261, R262). -/
namespace Sys2Proof.Machine

/-! ### Data from outside -/

/-- The entry a shard MOVE names, with its DIG. -/
def State.shardEntry (s : State) (c : MoveCmd) : Option (Nat × Nat) :=
  (s.findShard (aOff c.daddr.toNat) (c.rows * c.rowbytes.toNat)).map (fun e => (e, s.hnum (s.ment e + 16) 8))

/-- The end of a shard MOVE (R304): its entry's outcome with its fetches, and 0x4014 with CKF for a failed shard. A
shard of a batch whose manifest header is bad was not fetched. Log entry 65: DEDUCED. -/
def State.shardDone (s : State) (f : Flight) (c : MoveCmd) : State × Flight :=
  if !c.shard then (s, f)
  else
    match s.shardEntry c, f.note reasonKey with
    | none, _ => (s, { f with ckf := true })
    | some (e, _), none => if f.need = 0 then (s, f) else (s.endShard e true (min ((f.note fetchKey).getD 0 + 1) 4), f)
    | some (e, _), some r =>
      let t := s.endShard e false (if r = 4 then 0 else min ((f.note fetchKey).getD 0 + 1) 4)
      (t.evCmd 0x4014 f.cmd.hdr.lcore.toNat FieldRef.nil f.idx e r, { f with ckf := true })

/-- 1 for every byte of a command's chunks whose chunk is not dead. Log entry 41: DEDUCED. -/
def State.deadMask (s : State) (f : Flight) : List Byte :=
  (List.range (s.chunkCount f)).flatMap (fun k => List.replicate (s.chunkSize f k) (if k ∈ f.dead then (0 : Byte) else 1))

/-- A transfer within the module with a dead chunk: that chunk is not written, and any other byte keeps its
value or takes the new one (R161). Log entry 41: DEDUCED. -/
def State.deadChunk (s : State) (f : Flight) : State × Flight :=
  let own := f.core.getD 0
  let g := { f with eff := [] }
  let masked := fun (ms : List Wr) => (f.eff.zip (s.kept f ms)).foldl (fun t p => t.mixMasked p.1 p.2) s
  match f.cmd with
  | .move c => (masked (s.writesInto own c f.dst (moveMask s.free f.idx c ((f.got.lookup srcKey).getD []) (s.deadMask f))), g)
  | .coll c => (masked (s.collInto own c f.dst (s.deadMask f)), g)
  | .gath _ =>
    (((f.eff.mapIdx (fun i w => (i, w))).filter (fun p => decide (p.1 ∉ f.dead))).foldl (fun t p => t.mixStore p.2) s, g)
  | _ => (f.eff.foldl State.mixStore s, g)

/-- A command's effect from what arrived for it. Log entry 28: DEDUCED. -/
def State.deliver (s : State) (f : Flight) : State × Flight :=
  if f.need = 0 ∧ !f.dead.isEmpty then s.deadChunk f else
  match f.cmd with
  | .move c =>
    let (t, g) := if f.need = 0 then (s, f) else s.moveArrived f c
    t.shardDone g c
  | .dig c =>
    if f.need = 0 then (s, f)
    else
      let e := s.digEff (f.core.getD 0) c (s.srcBytes f)
      let g := { f with eff := e.writes, aux := BitVec.ofNat 64 e.aux }
      (s.noteDig g c e.aux, g)
  | .coll c =>
    if (s.collCtx c).n ≤ 1 || bitAt s.job.rplCtl.toNat 2 then (s, f)
    else
      match s.collResult f.idx c ((f.got.head?.map (fun g => g.2)).getD []) with
      | none => (s, f)
      | some (bs, fl) =>
        let ws := s.kept f (s.collInto (f.core.getD 0) c f.dst bs)
        if s.collDead f.idx then
          let ms := s.kept f (s.collInto (f.core.getD 0) c f.dst (s.collMask notDead f.idx c))
          ((ws.zip ms).foldl (fun t p => t.mixMasked p.1 p.2) s, { f.mark faultKey 0x4013 with eff := [] })
        else (s, { f with eff := ws, flags := fl })
  | _ => (s, f)

/-! ### DECIDE -/

/-- The ranks whose flags a DECIDE awaits, itself left out. -/
def State.flagPeers (s : State) (c : DecideCmd) : List Nat :=
  if s.job.desc.nrank ≤ 1 then [] else ((s.members c.group.toNat).getD []).filter (· != s.job.desc.rank)

/-- The flags of one step that stand here. -/
def State.stepFlags (s : State) (idx : Nat) : List FlagRx := s.net.flagRx.filter (fun x => x.stepw == s.stepWord idx)

/-- Whether every flag that a DECIDE awaits is here. -/
def State.flagsHere (s : State) (f : Flight) : Bool :=
  match f.cmd with
  | .decide c => (s.flagPeers c).all (fun r => (s.stepFlags f.idx).any (fun x => x.rank == r))
  | _ => true

/-- The audit comparison of R368 and R369; true when it raised its event. -/
def State.auditCheck (s : State) (idx : Nat) (fl : List FlagRx) : State × Bool :=
  let ctl := s.job.audCtl.toNat
  let w := s.stepWord idx
  if !bitAt ctl 31 then (s, false)
  else
    match ((s.members (bits ctl 15 0)).getD [])[w.toNat % (bits ctl 23 16 + 1)]? with
    | none => (s, false)
    | some r =>
      match fl.find? (fun x => x.rank == s.job.desc.rank), fl.find? (fun x => x.rank == r) with
      | some me, some it =>
        if me.ncsd = 0 ∨ (me.ncsd = it.ncsd ∧ me.csd = it.csd) then (s, false)
        else
          let t := { s with aud := { s.aud with amis := true, sedRank := BitVec.ofNat 16 r, sedStep := w } }
          (t.ev 0x4020 w.toNat r, true)
      | _, _ => (s, false)

/-- The pair held by more than half of a list. -/
def majority (ps : List (Nat × DWord)) : Option (Nat × DWord) :=
  ps.find? (fun p => decide (ps.length < 2 * (ps.filter (· == p)).length))

/-- The replica comparison of R371; true when it raised its event. -/
def State.replicaCheck (s : State) (idx : Nat) (fl : List FlagRx) : State × Bool :=
  let ctl := s.job.repCtl.toNat
  let w := s.stepWord idx
  if !bitAt ctl 31 then (s, false)
  else
    let ms := (s.members (bits ctl 15 0)).getD []
    let xs := (ms.filterMap (fun r => fl.find? (fun x => x.rank == r))).filter (fun x => x.nwdg != 0)
    let ps := xs.map (fun x => (x.nwdg, x.wdg))
    if ps.all (fun p => ps.head? == some p) then (s, false)
    else
      let maj := majority ps
      let who := match maj with
        | some m => ((xs.find? (fun x => (x.nwdg, x.wdg) != m)).map (fun x => x.rank)).getD 0xFFFF
        | none => 0xFFFF
      let t := { s with aud := { s.aud with rmis := true, nomaj := maj.isNone, sedRank := BitVec.ofNat 16 who, sedStep := w } }
      let t := t.ev 0x4021 w.toNat (who * 65536 + ps.length)
      (if maj.isSome ∧ who = s.job.desc.rank then t.chargeModule 3 else t, true)

/-- A DECIDE's outcome takes effect (R274 to R276, R372). Log entry 142: DEDUCED. -/
def State.decideEnd (s : State) (f : Flight) (_c : DecideCmd) : State × Flight :=
  let a := f.aux.toNat
  let l := bitAt a 0
  let fl := s.stepFlags f.idx
  let off := (fl.filter (fun x => x.l)).map (fun x => x.rank)
  let o := l || !off.isEmpty
  let d := s.job.dec
  let run : Word := if o then BitVec.ofNat 32 (satAdd 32 d.skipRun.toNat 1) else 0
  let first := off.foldl min 0xFFFF
  let d' : Dec := { d with
    skip := o, localL := l, whyFin := bitAt a 1, whyWat := bitAt a 2, whyCol := bitAt a 3
    noff := BitVec.ofNat 16 (min off.length 0xFFFF), first := BitVec.ofNat 16 first, skipRun := run
    skipTot := if o then BitVec.ofNat 32 (satAdd 32 d.skipTot.toNat 1) else d.skipTot }
  let w := (s.stepWord f.idx).toNat
  let t := { s with
    job := { s.job with
      dec := d', phase := 4
      skips := put s.job.skips (((stepOf s.job.steps f.idx).map (fun (p : Nat × Nat) => p.2)).getD 0) o }
    net := { s.net with flagRx := s.net.flagRx.filter (fun x => x.stepw != s.stepWord f.idx) } }
  let t := t.jAdd (t.jCmd 0x14 0xFF (if o then 1 else 0) f.idx (if o then 1 else 0) 0)
  let e := fun (u : State) (b : Bool) (code a1 : Nat) => if b && s.gathers f.idx then u.evCmd code 0xFF FieldRef.nil f.idx w a1 else u
  let t := e t l 0x1011 (a / 8 * 4 + a / 4 % 2 * 2 + a / 2 % 2)
  let t := e t o 0x1010 (first * 65536 + min off.length 0xFFFF)
  let t := e t (o && d.skipLim != 0 && run == d.skipLim) 0x1012 run.toNat
  let (t, x) := t.auditCheck f.idx fl
  let (t, y) := t.replicaCheck f.idx fl
  let t := if (x || y) && s.cfg 0x0201 == 1 then t.killAt f.idx (if x then 0x4020 else 0x4021) false else t
  (t, { f with aux := if o then 1 else 0 })

/-! ### COMMIT -/

/-- A COMMIT completes: the Cast switches on UPDATE, and a batch boundary falls due (R291, R298, R306). -/
def State.commitEnd (s : State) (f : Flight) : State × Flight :=
  let up := !s.skipOf f.idx
  let t := if up then s.commitLoad else s.abandonLoad
  let t := (if up then { t with cast := t.cast.switch } else t).writeCast
  let t := t.jAdd (t.jCmd 0x15 0xFF (if t.cast.p then 1 else 0) f.idx 0 0)
  ({ t with job := { t.job with bound := true, boundIdx := some f.idx, boundUpd := up, commits := t.job.commits + 1 } }, { f with aux := if t.cast.p then 1 else 0 })

/-! ### SIGNAL -/

/-- A SIGNAL's effect (R219, R339). Log entry 23: DEDUCED. Log entry 54: DEDUCED. -/
def State.signalEnd (s : State) (f : Flight) (c : SignalCmd) : State :=
  if c.tgt = 1 then (s.storeOrdered c.haddr.toNat (leBytes 4 c.value.toNat)).irq 0
  else if c.rank.toNat = s.job.desc.rank then
    { s with job := { s.job with sigs := upd s.job.sigs c.ctr.toNat (· + c.value) } }
  else
    s.send c.rank.toNat { s.packet 4 c.rank.toNat (s.stepWord f.idx) (s.cmdWord f.idx) with
      cdig := BitVec.ofNat 64 (c.ctr.toNat * 2 ^ 32 + c.value.toNat) }

/-- The control effect of a completion. -/
def State.ctlEnd (s : State) (f : Flight) : State × Flight :=
  match f.cmd with
  | .decide c => s.decideEnd f c
  | .commit _ => s.commitEnd f
  | .signal c => (s.signalEnd f c, f)
  | .stepc _ => (s, { f with aux := BitVec.ofNat 64 (((stepOf s.job.steps f.idx).map (fun p => p.1)).getD 0) })
  | _ => (s, f)

/-! ### Duo boundaries (R261, R262) -/

/-- Order of a write in a result digest: spaces in code order, cores, addresses. -/
def wrKey (own : Nat) (w : Wr) : Nat × Nat × Nat :=
  match w.loc with
  | .core c | .lut c => if c = own then (0, 0, w.addr) else (1, c, w.addr)
  | .hbm => (2, 0, w.addr)
  | .host => (3, 0, w.addr)
  | .peer r c => (4, r * 512 + (c.map (· + 1)).getD 0, w.addr)

/-- Insertion by order. -/
def insWr (own : Nat) (w : Wr) : List Wr → List Wr
  | [] => [w]
  | x :: xs =>
    let a := wrKey own x
    let b := wrKey own w
    if a.1 < b.1 ∨ (a.1 = b.1 ∧ (a.2.1 < b.2.1 ∨ (a.2.1 = b.2.1 ∧ a.2.2 ≤ b.2.2))) then x :: insWr own w xs else w :: x :: xs

/-- The bytes that a COLL, DECIDE or SIGNAL sends to peers, rank by rank, contributions before results; of a FLAG its L and
its payload (R261, R332, R339, R341). Log entry 130: DEDUCED. -/
def State.sentBytes (s : State) (f : Flight) : List Byte :=
  match f.cmd with
  | .decide c => (s.flagPeers c).flatMap (fun _ => (f.got.head?.map (fun g => g.2)).getD [])
  | .signal c => if c.tgt = 2 ∧ c.rank.toNat ≠ s.job.desc.rank then leBytes 4 c.value.toNat else []
  | .coll c =>
    let x := s.collCtx c
    if x.n ≤ 1 || bitAt s.job.rplCtl.toNat 2 then []
    else
      let mine := (f.got.head?.map (fun g => g.2)).getD []
      let result := if c.cop.toNat ≤ 1 then ((s.ownResult f.idx c mine).map (fun r => r.1)).getD [] else []
      ((x.ms.mapIdx (fun p m => (p, m))).filter (fun pm => pm.1 != x.q)).flatMap (fun pm =>
        if c.cop.toNat ≤ 2 then x.seg pm.1 mine ++ result
        else if c.cop = 3 ∨ x.q = 0 then mine else [])
  | _ => []

/-- What a command writes by its control effect: a SIGNAL's word in host memory (R219). -/
def ctlWrites (f : Flight) : List Wr :=
  match f.cmd with
  | .signal c => if c.tgt = 1 then [⟨.host, c.haddr.toNat, leBytes 4 c.value.toNat⟩] else []
  | _ => []

/-- The result digest of a command, with the words it covers (R261). Log entry 130: DEDUCED. -/
def State.resultDigest (s : State) (f : Flight) : Nat × Nat :=
  let r := { s.recOf f with hold := false }
  let ws := (f.eff ++ f.landed ++ ctlWrites f).foldl (fun l w => insWr (f.core.getD 0) w l) []
  let bs := r.bytes false ++ ws.flatMap (fun w => w.bytes) ++ s.sentBytes f
  (pd61 s.key bs, ceilDiv bs.length 8)

/-- A completion enters the boundary of its beat (R261, R262). -/
def State.noteBound (s : State) (f : Flight) : State :=
  if !s.duoOn || s.duo.lost || decide (f.compl < s.duo.formed) then s
  else
    let (d, m) := s.resultDigest f
    let b := f.compl
    let put := fun (l : List Bnd) => match l.getLast? with
      | some x => if x.beat = b then l.dropLast ++ [⟨b, x.count + 1, BitVec.ofNat 64 (pdMerge s.key x.dig.toNat d m)⟩]
        else l ++ [⟨b, 1, BitVec.ofNat 64 d⟩]
      | none => [⟨b, 1, BitVec.ofNat 64 d⟩]
    { s with duo := { s.duo with
        own := put s.duo.own, send := put s.duo.send
        rds := (s.duo.rds.filter (fun r => decide (b < r.1 + 131072)))
          ++ [(b, f.idx, if f.core.isSome then f.cmd.hdr.lcore.toNat else 0xFF, BitVec.ofNat 64 d)] } }

/-- The RDs of the commands that completed at beat `b` go to the partner, 512 to a packet (R263, R346). Log entry
59: DESIGN CHOICE. -/
def State.sendRds (s : State) (b : Nat) : State :=
  let ds := (s.duo.rds.filter (fun r => r.1 == b)).map (fun r => r.2.2.2)
  (List.range (ceilDiv ds.length 512)).foldl (fun t i =>
    t.sendDuo 1 (((ds.drop (512 * i)).take 512).flatMap (fun (d : DWord) => leBytes 8 d.toNat))) s

/-- The first mismatching boundary (R263): nothing more issues, what has issued completes, and the RDs are
exchanged. -/
def State.duoMismatch (s : State) (b n : Nat) : State :=
  let t := { s with
    duo := { s.duo with mis := true, beat := BitVec.ofNat 64 b, pendMis := some b }
    job := { s.job with disp := [], flights := s.job.flights.filter (fun f => f.issued), stop := some ⟨s.job.hi, 0xA011⟩ } }
  (t.ev 0xA010 b n).sendRds b

/-- Compares the boundaries of this module and its partner in order, as far as they are whole here (R262). `fuel` bounds
them. -/
def State.duoCompare : Nat → State → State
  | 0, s => s
  | fuel + 1, s =>
    if s.duo.pendMis.isSome then s
    else
      match s.duo.ptn with
      | [] => s
      | p :: ps =>
        match s.duo.own.head?.filter (fun o => decide (o.beat ≤ p.beat)) with
        | some o =>
          if !s.wholeBnd o.beat then s
          else if o = p then State.duoCompare fuel { s with duo := { s.duo with own := s.duo.own.drop 1, ptn := ps } }
          else s.duoMismatch o.beat o.count
        | none => if decide (p.beat ≤ s.drn.beat) && s.wholeBnd p.beat then s.duoMismatch p.beat 0 else s

/-- Whether a comparison of boundaries is due at this beat. -/
def State.duoDue (s : State) : Bool := s.duoOn && !s.duo.lost && s.duo.pendMis.isNone && !s.duo.ptn.isEmpty

/-! ### Retirement -/

/-- The job's end after MUTE END or MUTE PAUSE completes (R220, R221). -/
def State.muteEnd (s : State) (f : Flight) : State :=
  match f.cmd with
  | .mute _ true => s.setJob .paused
  | .mute _ false => s.doneNow (f.idx - s.job.stepIdx)
  | _ => s

/-- What the retirement itself stops the job for: exhausted resends, a refused peer operation, a failed
host read. Log entry 19: DEDUCED. -/
def State.noteStop (s : State) (f : Flight) : State :=
  match f.note faultKey with
  | some code => s.killAt f.idx code false
  | none => s

/-- The lines that the patrol found uncorrectable among those a command read: its readers meet them (R153). -/
def State.foundBad (s : State) (f : Flight) : List CheckObs :=
  (s.badLines.filter (fun a => f.took.any (fun h => decide (h.1 ≤ a / 64 ∧ a / 64 ≤ h.2)))).map (fun a => .hbm a true)

/-- What a command writes heals the lines that it writes whole. -/
def State.healed (s : State) (f : Flight) : State :=
  (f.eff.filter (fun w => w.loc == .hbm)).foldl (fun t w => t.heal w.addr w.bytes.length) s

/-- The packets of a type that a command has sent, as `g` makes them: those on the wire, those unacknowledged and those
kept. -/
def State.remake (s : State) (f : Flight) (type : Byte) (g : Packet → Packet) : State :=
  let one := fun (p : Packet) => if p.type == type && p.stepw == s.stepWord f.idx && p.cmdw == s.cmdWord f.idx then g p else p
  { s with net := { s.net with
      tx := s.net.tx.map (fun (x : Frame) => { x with pkt := one x.pkt })
      flows := s.net.flows.map (fun (w : Flow) => { w with unacked := w.unacked.map (fun (x : TxPkt) => { x with pkt := one x.pkt }) })
      retain := s.net.retain.map (fun x => (x.1, one x.2)) } }

/-- A DATA packet of a COLL whose contribution is `mine`. -/
def State.dataOf (s : State) (f : Flight) (c : CollCmd) (mine : List Byte) (p : Packet) : Packet :=
  let x := s.collCtx c
  let bs := if p.part = 1 then ((s.ownResult f.idx c mine).map (fun r => r.1)).getD []
    else if c.cop.toNat ≤ 2 then x.seg p.seg.toNat mine else mine
  let ch := (bs.drop (65536 * p.chunk.toNat)).take 65536
  { p with payload := (ch.drop (4096 * p.pkt.toNat)).take 4096, cdig := BitVec.ofNat 64 (pd61 s.key ch) }

/-- An entry of the step's records in place of another. -/
def State.jSwap (s : State) (old new : JEntry) : State :=
  { s with job := { s.job with jrn := { s.job.jrn with entries := s.job.jrn.entries.map (fun e => if e = old then new else e) } } }

/-- An uncorrectable word is delivered as read also to what left at the issue, of which the device reports it only now: a
DECIDE's flag, a COLL's pieces and their digests, a DIG's digest, what went to a peer; `f0` is the command before
`State.spoil` (R143, R151). Log entry 148: DESIGN CHOICE. -/
def State.asRead (s : State) (f0 f : Flight) : State × Flight :=
  match f.cmd with
  | .decide _ =>
    let b := fun (n : Nat) => Config.freeBit (s.free + n)
    let bit := fun (c : Bool) (n : Nat) => if c then n else 0
    let col := bitAt f.aux.toNat 3
    let l := b 0 || b 1 || col
    let w := s.stepWord f.idx
    let got := f.got.map (fun g => (g.1, leBytes 8 (bit l 1) ++ g.2.drop 8))
    let t := { s with
      free := s.free + 2
      net := { s.net with flagRx := s.net.flagRx.map (fun (x : FlagRx) =>
        if x.rank == s.job.desc.rank && x.stepw == w then { x with l := l } else x) } }
    (t.remake f 3 (fun p => { p with cdig := BitVec.ofNat 64 (bit l 1) }),
      { f with got := got, aux := BitVec.ofNat 64 (bit l 1 + bit (b 0) 2 + bit (b 1) 4 + bit col 8) })
  | .coll c =>
    let old := (f.got.head?.map (fun g => g.2)).getD (s.contribution f.idx (f.core.getD 0) c)
    let (mine, t) := s.bytes old.length
    let d := t.pdChunks mine
    let fin := !mine.isEmpty && finFlag (tfOr c.fb).fmt c.count.toNat mine
    let lc := f.cmd.hdr.lcore.toNat
    let was := fun (b : Bool) => t.jCmd 0x13 lc (if b then 1 else 0) f.idx old.length (t.pdChunks old)
    let new := t.jCmd 0x13 lc (if fin then 1 else 0) f.idx mine.length d
    let t := (t.jSwap (was true) new).jSwap (was false) new
    let t := { t with job := { t.job with
      dec := { t.job.dec with colFlag := t.job.dec.colFlag || fin }
      csds := t.job.csds.map (fun (x : Nat × Nat × Nat) => if x.1 = f.idx then (x.1, d, x.2.2) else x) } }
    (t.remake f 1 (t.dataOf f c mine), { f with got := if f.got.isEmpty then [] else [(0, mine)] })
  | .dig c =>
    if !c.jrn then (s, f)
    else
      let e := fun (x : DWord) => s.jCmd 0x12 f.cmd.hdr.lcore.toNat 0 f.idx 0 x.toNat
      let t := s.jSwap (e f0.aux) (e f.aux)
      ({ t with job := { t.job with wdgs := t.job.wdgs.map (fun (x : Nat × Nat × Nat) => if x.1 = f.idx then (x.1, f.aux.toNat, x.2.2) else x) } }, f)
  | .move _ =>
    let pairs := f0.peerRuns.zip f.peerRuns
    ({ s with net := { s.net with rdma := s.net.rdma.map (fun (o : RoceOp) =>
        match pairs.find? (fun p => p.1.2.1 == o.rank && p.1.2.2.1 == o.core && p.1.2.2.2.1 == o.addr && o.bytes == some p.1.2.2.2.2) with
        | some p => { o with bytes := some p.2.2.2.2.2 }
        | none => o) } }, f)
  | _ => (s, f)

/-- A command retires at its completion beat with what its checkers found. Log entry 17: DEDUCED. -/
def State.retireOne (s : State) (f : Flight) (obs : List CheckObs) : State :=
  let (s, f) := s.deliver f
  let obs := f.ordered obs ++ s.foundBad f
  let f0 := f
  let (s, f) := s.spoil f obs
  let (s, f) := if obs.any CheckObs.unread then s.asRead f0 f else (s, f)
  let s := s.stores (f.eff.filter (fun w => match w.loc with | .peer _ _ => false | _ => true))
  let s := s.healed f
  let (s, a) := obs.foldl (State.observe f) (State.observeRes f obs (s, Found.none))
  let f := { f with ckf := f.ckf || a.ckf || (f.note faultKey).isSome }
  let (s, f) := s.ctlEnd f
  let s := s.gather f
  let f := if s.gathers f.idx then f else { f with flags := 0 }
  let s := { s with job := { s.job with flights := s.job.flights.filter (fun g => g.idx != f.idx) }, rcv := { s.rcv with hang := 0, hung := false } }
  let s := if f.records && !s.repeated f.idx then s.putRec (s.recOf f) else s
  let s := s.noteBound f
  let s := ((s.silentError f a).eccStop f a).noteStop f
  s.muteEnd f

/-- What a command is about to write, as far as its places are known; a packed stream from outside shows its length once it
is here, and writes that R230 discards are none. -/
def State.toLand (s : State) (f : Flight) : List Wr :=
  let own := f.core.getD 0
  let n := f.dst.foldl (fun n r => n + r.2) 0
  match f.cmd with
  | .move c =>
    if f.need = 0 then f.eff
    else if c.form = 3 then (if s.arrived f then s.kept f (s.moveInto f.idx own c f.dst true (s.srcBytes f)).writes else [])
    else s.kept f (s.writesInto own c f.dst (List.replicate n 0))
  | .coll c => if f.eff.isEmpty then s.kept f (s.collInto own c f.dst (List.replicate n 0)) else f.eff
  | _ => f.eff

/-- Pages of the open epoch that a command writes and that are not yet copied (R150). -/
def State.untouched (s : State) (f : Flight) : List Nat :=
  match s.mqt.epoch with
  | none => []
  | some e =>
    (((s.toLand f).filter (fun w => w.loc == .hbm)).flatMap (fun w => pagesIn w.addr w.bytes.length)).filter (fun p =>
      decide (p ∈ s.wp) && !decide (p ∈ e.drn))

/-- Whether a COLL works with other members and lacks pieces of theirs. -/
def State.collWaits (s : State) (f : Flight) : Bool :=
  match f.cmd with
  | .coll c => decide (1 < (s.collCtx c).n) && !bitAt s.job.rplCtl.toNat 2
      && (s.collResult f.idx c ((f.got.head?.map (fun g => g.2)).getD [])).isNone
  | _ => false

/-- Whether a command lacks data: from outside, of a chunk whose resend is under way, or of other members. -/
def State.lacks (s : State) (f : Flight) : Bool :=
  decide (f.need ≠ 0 ∧ !s.arrived f) || (f.need == 0 && !f.owing.isEmpty) || s.collWaits f

/-- Whether a completion is not yet possible at its beat: a due point of R195. -/
def State.retireBlocked (s : State) (f : Flight) : Bool :=
  s.lacks f || decide (f.acks ≠ 0) || !(s.untouched f).isEmpty || !s.flagsHere f

end Sys2Proof.Machine
end

