-- ==== Sys2Proof/Machine/Run.lean ====
section
/-! DEFINITION. How the launched job runs: planning (R189, R201, R225, R231, R232), the guidance of Bellows
(R439, R441, R442), and the events of the beats in order (R182, R194, R195). -/
namespace Sys2Proof

/-- The part of the stream that a command leaves behind it (R225). -/
def Cmd.partAfter (p : Machine.Part) : Cmd → Machine.Part
  | .stepc _ => .compute
  | .coll _ => if p = .compute then .exchange else p
  | .decide _ => .commitA
  | .commit _ => .commitB
  | _ => p

/-- STEP. -/
def Cmd.isStep : Cmd → Bool
  | .stepc _ => true
  | _ => false

end Sys2Proof

namespace Sys2Proof.Machine

/-! ### Guidance -/

/-- M of R436, in W. -/
def State.margin (s : State) : Nat := s.cfg 0x0402 + if s.pwr.meas then 150 else 0

/-- The cap limit of R439 for a non-matrix power in 1/32,768 W, from 1 to 64. -/
def State.capLimit (s : State) (other : Int) : Nat :=
  let room : Int := ((s.pwr.ceff : Int) - s.margin) * 32768 - other
  let den : Int := (max 1 (s.pwr.k * s.pwr.pfull) : Nat)
  (max 1 (min 64 (64 * room / den))).toNat

/-- Puts an operating point in force: its IMAX bounds the limit, its VRCLS goes to the regulators (R442). -/
def State.putPoint (s : State) (x : Nat) : State :=
  let op := fun (k : Nat) => leOf (((imgBytes s.img 0x0404).drop (2 * x + k)).take 1)
  { s with pwr := { s.pwr with opent := x, iguide := op 0, vrcls := op 1 } }

/-- The operating point of the part the stream has entered (R442). -/
def State.followPhase (s : State) (old : Nat) : State :=
  if s.job.phase = old ∨ s.cfg 0x0403 = 0 then s
  else s.putPoint (bits (s.cfg 0x0405) (4 * s.job.phase + 3) (4 * s.job.phase))

/-- The limit recomputed with the learned non-matrix power of a class (R441); before a job's first tick there is none. -/
def State.classLimit (s : State) (c : Nat) : Nat :=
  match s.pwr.nc with
  | some l => s.capLimit (l.getD c 0)
  | none => s.pwr.ilim

/-- The effect beat of a PHASE (R441, R442). -/
def State.phaseEffect (s : State) : State :=
  match s.pwr.phase with
  | none => s
  | some e =>
    let t := { s with pwr := { s.pwr with phase := none } }
    if s.cfg 0x0403 = 1 then t.putPoint e.opt
    else
      { t with pwr := { t.pwr with
          cls := e.cls, ilim := t.classLimit e.cls, phased := some (t.drn.beat + t.drn.cyc, t.pwr.cls) } }

/-! ### Planning -/

/-- The planned issue beat of a command whose frame is open (R181). -/
def State.plannedOf (s : State) (d : Disp) : Nat := s.job.frame + d.cmd.hdr.off.toNat

/-- A command at its planned issue beat, not yet issued. -/
def State.planned (s : State) (d : Disp) (cmd : Cmd) (p : Nat) : Flight :=
  let h := cmd.hdr
  let own := s.logical h.lcore.toNat
  let ctl := cmd.queue == .ctl
  { idx := d.idx, cmd := cmd, core := if ctl then none else some own, queue := cmd.queue, slot := h.slot.toNat
    gslot := if s.touchesGdq cmd then some h.gslot.toNat else none
    tag0 := (cmd.tags.map (fun t => t.base.toNat)).getD 0, ntag := (cmd.tags.map (fun t => t.n1.toNat + 1)).getD 0
    planned := p, issue := 0, compl := 0, pcompl := p + s.latency d.idx own cmd, occ := 0, issued := false
    frame := s.job.frame, part := cmd.partAfter s.job.part, reads := [], writes := [], dst := [], lastSpd := 0, wins := [], ilk := []
    eff := [], flags := 0, fm := 0, ckf := false, hold := false, aux := 0, need := 0, got := [], tries := [], dead := [], took := [], landed := [], sure := true
    sums := ([], []), covers := [], w16 := false, acks := 0, persWr := (s.persPage cmd).isSome, pass := d.pass, pos := d.pos }

/-- Whether a boundary may change the tables in force before a command planned now issues. -/
def State.mayTurn (s : State) : Bool :=
  s.job.bound || s.job.flights.any (fun g => match g.cmd with | .commit _ => true | _ => false)

/-- Whether what a command in flight writes is not known yet: it has not issued, or its data comes from outside. -/
def State.unknown (s : State) (g : Flight) : Bool :=
  !g.issued || s.fromOutside g.cmd || (match g.cmd with | .coll c => decide (1 < (s.collCtx c).n) | _ => false)

/-- Whether the tables and the data that decide the checks of a command planned now stand already. -/
def State.settled (s : State) (idx own : Nat) (cmd : Cmd) : Bool :=
  let r := (s.feet idx own cmd).1
  !s.mayTurn && s.job.flights.all (fun g => !(s.unknown g && hullsMeet (s.feetOf g).2 r))

/-- The checks of a command at its planned beat: its words, then its fields (R200, R215), then, where what decides them
stands already, its data and tables, and at last its place in the stream (R231). Log entry 10: DEDUCED. Log entry
112: DEDUCED. -/
def State.planChk (s : State) (d : Disp) (p : Nat) : Chk :=
  let own := s.logical d.cmd.hdr.lcore.toNat
  firstChk [
    failIf (decide (p < s.job.lastPlanned)) 0x2001 (wordF 1) p,
    match d.bad with | some f => some (0x2010, f, 0, 0) | none => none,
    s.chkDispatch d.idx d.cmd p,
    if s.settled d.idx own d.cmd then firstChk [s.chkIssue d.idx own d.cmd, s.chkLegal d.cmd] else none]

/-- The command a decoded one issues as: under CONLY, DECIDE is MUTE END (R259). Log entry 140: DEDUCED. -/
def State.issuesAs (s : State) (c : Cmd) : Cmd :=
  match c with
  | .decide d => if bitAt s.job.rplCtl.toNat 2 then .mute d.hdr false else c
  | _ => c

/-- The state with a decoded command planned at its beat. -/
def State.plan (s : State) (d : Disp) (rest : List Disp) : State :=
  let p := s.plannedOf d
  let c := s.issuesAs d.cmd
  { s with job := { s.job with
      disp := rest, since := s.job.since ++ [{ d with cmd := c }], flights := s.job.flights ++ [s.planned d c p], part := d.cmd.partAfter s.job.part, lastPlanned := p
      ending := c.isEnd } }

/-- The machine with no command behind those planned and nothing asked of it: what it does does not depend on them
(R193, R194). -/
def State.only (s : State) : State :=
  { s with job := { s.job with disp := [], ending := true, pausePend := false, preempt := false } }

/-- The checks that `v`, the state in which the command is about to issue, decides, and its place in the stream as it was
planned in `s` (R201, R226, R231). Log entry 112: DEDUCED. -/
def State.lateChk (s v : State) (d : Disp) (ready : Bool) : Chk :=
  let u := if ready then v else s
  firstChk [
    if ready then v.chkIssue d.idx (s.logical d.cmd.hdr.lcore.toNat) d.cmd else none,
    chkPlace s.job.part d.cmd, u.chkPers s.job.part d.cmd]

/-- Whether a run ahead that ended in `v` short of a command's issue ended for what is under way already: data that
commands in flight wait for, or the tables of a boundary. Log entry 112: DEDUCED. -/
def State.underWay (s v : State) : Bool :=
  s.job.flights.any (fun g => g.issued && s.retireBlocked g) || (v.job.bound && v.boundary.isNone)

/-- The planned completion of a command in flight, with its latency as `v` has it (R200). -/
def State.setPlanned (s v : State) (g : Flight) : State :=
  s.setFlight { g with pcompl := g.planned + v.latency g.idx (g.core.getD 0) g.cmd, sure := true }

/-- The planned completions of commands in flight that were not known yet, as far as `look` finds them; true while one may
still come of what is under way. -/
def State.refresh (look : Nat → State → State × Bool) (s : State) : State × Bool :=
  (s.job.flights.filter (fun g => !g.sure)).foldl (fun (acc : State × Bool) g =>
    let (v, ready) := look g.idx s.only
    if ready then (acc.1.setPlanned v g, acc.2) else (acc.1, acc.2 || s.underWay v)) (s, false)

/-- The first decoded command reaches its planned beat: it is refused, or it waits to issue. What decides its checks may
not stand before its issue; `look` then runs the machine ahead, without any later command, to the beat at which it is
about to issue, and the answer is taken here, at the planned beat (R201). While that lacks what is under way the beat is
not passed (true), so that the answer is the same in every run (R202). Log entry 112: DEDUCED. -/
def State.planNow (look : Nat → State → State × Bool) (s : State) : State × Bool :=
  match s.job.disp with
  | [] => (s, false)
  | d :: rest =>
    let p := s.plannedOf d
    let (s, open_) := s.refresh look
    let out := { s with job := { s.job with disp := rest } }
    if open_ then (s, true)
    else
      match s.planChk d p with
      | some e => (out.failCheck d.idx d.cmd.hdr.lcore.toNat e, false)
      | none =>
        let t := s.plan d rest
        if s.settled d.idx (s.logical d.cmd.hdr.lcore.toNat) d.cmd then (t, false)
        else
          let (v, ready) := look d.idx t.only
          if !ready && s.underWay v then (s, true)
          else
            match s.lateChk v d ready with
            | some e => (out.failCheck d.idx d.cmd.hdr.lcore.toNat e, false)
            | none =>
              match t.job.flights.find? (fun g => g.idx == d.idx) with
              | some g => (if ready then t.setPlanned v g else t.setFlight { g with sure := false }, false)
              | none => (t, false)

/-- The decoded commands whose planned beats are known: those of the open frame, up to its last. -/
def upToStep : List Disp → List Disp
  | [] => []
  | d :: r => d :: (if d.cmd.isStep then [] else upToStep r)

/-- The decoded commands, in order, that have passed the checks of R200, as far as what decides them stands: no earlier one
still to issue writes what they read or may turn the tables. Log entry 121: DEDUCED. -/
def State.admitted : List Foot → List Disp → State → List Disp
  | _, [], _ => []
  | ws, d :: r, s =>
    let p := s.plannedOf d
    let own := s.logical d.cmd.hdr.lcore.toNat
    let (rd, wr) := s.feet d.idx own d.cmd
    let turns := match d.cmd with | .commit _ => true | _ => false
    if (s.planChk d p).isSome || !s.settled d.idx own d.cmd || hullsMeet ws rd then []
    else
      d :: (if turns then [] else
        State.admitted (ws ++ wr) r { s with job := { s.job with part := d.cmd.partAfter s.job.part, lastPlanned := p } })

/-- The entries of the queues that hold a command, as queue, core and slot (R28, R188, R189): the Chanter writes a command
into its slot once it is fetched, has passed its checks and the slot's previous occupant has retired, so that a slot
that several commands name holds the first of them. Log entry 121: DEDUCED. -/
def State.inSlots (s : State) : List (Queue × Nat × Nat) :=
  let held := s.job.flights.filterMap (fun f => f.core.map (fun c => (f.queue, c, f.slot)))
  let ds := if s.job.stop.isSome || s.job.flights.any (fun f => !f.issued && f.cmd.isStep) then [] else
    s.admitted [] (upToStep s.job.disp)
  (held ++ (ds.filter (fun d => d.cmd.queue != .ctl)).map (fun d =>
    (d.cmd.queue, s.logical d.cmd.hdr.lcore.toNat, d.cmd.hdr.slot.toNat))).eraseDups

/-- A job that has neither stopped nor planned its MUTE END. -/
def Job.open (j : Job) : Bool := j.stop.isNone && !j.ending

/-- A STEP waits to issue, so that the next frame's base is not known. -/
def Job.stepWaits (j : Job) : Bool := j.flights.any (fun f => !f.issued && f.cmd.isStep)

/-- The code with which the stream has come to its end, if it has (R210, R232). -/
def SegSt.over : SegSt → Option Nat
  | .ended => some 0x9005
  | .failed c => some c
  | _ => none

/-- The beat of R232: one after the last planned, or beat 0. -/
def Job.overBeat (j : Job) : Nat := if j.next = 0 then 0 else j.lastPlanned + 1

/-- The stream has run out or failed at its next command (R210, R232). -/
def State.runOut (s : State) : State :=
  match s.job.seg.over with
  | none => s
  | some code =>
    let t := if code = 0x9005 then s.evCmd code 0xFF FieldRef.nil s.job.next s.job.part.code 0 else s
    t.stopAt s.job.next code

/-! ### What holds the beats back (R195) -/

/-- The lesser of two bounds. -/
def optMin : Option Nat → Option Nat → Option Nat
  | none, b => b
  | a, none => a
  | some a, some b => some (min a b)

/-- The last planned beat that decoded commands fix, a STEP's planned beat being the next base: it issues there, or no
beat passes (R225, R249). -/
def knownBeat : Nat → Nat → List Disp → Nat
  | _, m, [] => m
  | frame, m, d :: r =>
    let p := max m (frame + d.cmd.hdr.off.toNat)
    knownBeat (if d.cmd.isStep then p else frame) p r

/-- The stream's bound. -/
def State.streamLimit (s : State) : Option Nat :=
  let j := s.job
  if !j.open || j.seg.over.isSome || j.disp.any (fun d => d.cmd.isEnd) then none
  else if j.stepWaits then some (knownBeat j.lastPlanned j.lastPlanned j.disp)
  else some (knownBeat j.frame j.lastPlanned j.disp)

/-- A Duo partner's bound (R263). -/
def State.duoLimit (s : State) : Option Nat :=
  if s.duo.pendMis.isSome then some (s.job.flights.foldl (fun m f => max m f.compl) s.drn.beat)
  else if s.duoOn && !s.duo.lost then some (s.duo.lastPtn + 65537) else none

/-- The beat at which the flags that a DECIDE lacks fall due: SLACK beats after its issue (R274). Log entry 141:
DEDUCED. -/
def State.flagLimit (s : State) : Option Nat :=
  (s.job.flights.filter (fun f => f.issued && !s.flagsHere f)).foldl
    (fun m f => optMin m (some (f.issue + max 1 f.cmd.hdr.slack.toNat))) none

/-- The beat that the due points let the machine reach. -/
def State.beatLimit (s : State) : Option Nat := optMin s.streamLimit s.duoLimit

/-- 1 for every byte that a command's write window places whose data is here (R161, R195). Log entry 120: DEDUCED. -/
def State.hereMask (s : State) (f : Flight) : List Byte :=
  let mask := (List.range (s.chunkCount f)).flatMap (fun k => List.replicate (s.chunkSize f k)
    (if if f.need = 0 then decide (k ∉ f.owing) else (f.got.lookup k).isSome || decide (k ∈ f.dead) then (1 : Byte) else 0))
  match f.cmd with
  | .move c => moveMask s.free f.idx c (if f.need = 0 then (f.got.lookup srcKey).getD [] else s.srcBytes f) mask
  | .coll c => if s.collWaits f then s.collMask isHere f.idx c else mask
  | .gath _ => mask
  | _ => []

/-- The first beat that a command's missing data holds back: a line of its landing buffer is due at its window beat
(R191, R195). Log entry 120: DEDUCED. -/
def State.landingBeat (s : State) (f : Flight) : Option Nat :=
  if !f.issued || !s.lacks f then none
  else
    match f.wins.find? (fun w => w.wr), (s.hereMask f).findIdx? (fun b => b == 0) with
    | some w, some j => some (max (f.issue + 1) (w.first + j / 256))
    | _, _ => none

/-- The landing-buffer lines' bound. Log entry 120: DEDUCED. -/
def State.landingLimit (s : State) : Option Nat :=
  s.job.flights.foldl (fun m f => optMin m (s.landingBeat f)) none

/-! ### Events -/

/-- What happens next to a running job. -/
inductive Ev where
  | retire (idx : Nat)
  | kill
  | bound
  | phase
  | issue (idx : Nat)
  | plan
  | runOut
  | stopDone
  | killLater
  | duo
  deriving DecidableEq, Repr

/-- An event with its beat and its place within the beat. -/
structure Due where
  beat : Nat
  cls : Nat
  idx : Nat
  ev : Ev
  deriving DecidableEq, Repr

/-- The order of events: beat, then kind, then command index. -/
def Due.before (a b : Due) : Bool :=
  decide (a.beat < b.beat)
    || (a.beat == b.beat && (decide (a.cls < b.cls) || (a.cls == b.cls && decide (a.idx ≤ b.idx))))

/-- The first of a list. -/
def firstDue : List Due → Option Due
  | [] => none
  | d :: r =>
    match firstDue r with
    | none => some d
    | some e => some (if d.before e then d else e)

/-- The events of commands in flight. -/
def State.flightDues (s : State) : List Due :=
  s.job.flights.filterMap (fun f =>
    if f.issued then some ⟨f.compl, 0, f.idx, .retire f.idx⟩
    else (s.place f).map (fun p => ⟨max p.1 s.drn.beat, 4, f.idx, .issue f.idx⟩))

/-- The event of the next decoded command, or of the stream's end. -/
def State.streamDue (s : State) : List Due :=
  let j := s.job
  if !j.open || j.stepWaits then []
  else
    match j.disp with
    | d :: _ => [⟨max (s.plannedOf d) s.drn.beat, 5, d.idx, .plan⟩]
    | [] => if j.seg.over.isSome then [⟨max j.overBeat s.drn.beat, 6, 0, .runOut⟩] else []

/-- The events of the machine itself. -/
def State.ownDues (s : State) : List Due :=
  let j := s.job
  let b := s.drn.beat
  (match j.kill with | some false => [⟨b, 1, 0, .kill⟩] | some true => [⟨b, 9, 0, .killLater⟩] | none => [])
    ++ (if s.duoDue then [⟨max ((s.duo.ptn.head?.map (fun p => p.beat)).getD b) b, 1, 1, .duo⟩] else [])
    ++ (if j.bound then [⟨b, 2, 0, .bound⟩] else [])
    ++ (match s.pwr.phase with | some e => [⟨max e.beat b, 3, 0, .phase⟩] | none => [])
    ++ (match j.stop with
      | some x => if s.duo.pendMis.isNone && j.flights.all (fun f => decide (x.idx ≤ f.idx)) then [⟨b, 7, 0, .stopDone⟩] else []
      | none => [])

/-- The next event. Log entry 17: DEDUCED. -/
def State.nextDue (s : State) : Option Due := firstDue (s.flightDues ++ s.streamDue ++ s.ownDues)

/-- A command in flight by index. -/
def State.flight (s : State) (idx : Nat) : Option Flight := s.job.flights.find? (fun f => f.idx == idx)

/-- A COLL in COMPUTE enters EXCHANGE, by beats, as it issues (R225). -/
def State.enterExchange (s : State) (x : Flight) : State :=
  match x.cmd with
  | .coll _ => if s.job.phase = 1 ∧ x.part = .exchange ∧ s.job.stepIdx ≤ x.idx then { s with job := { s.job with phase := 2 } } else s
  | _ => s

/-- One event; true when the machine cannot pass it yet. `look` runs the machine ahead of a command (`State.planNow`). -/
def State.happen (look : Nat → State → State × Bool) (s : State) (e : Ev) : State × Bool :=
  match e with
  | .retire i =>
    match s.flight i with
    | some f => if s.retireBlocked f then (s, true) else (s.retireOne f [], false)
    | none => (s, true)
  | .kill => (s.faultNow.autoReset s.job.chk, false)
  | .bound =>
    match s.boundary with
    | some t => (t, false)
    | none => (s, true)
  | .phase => (s.phaseEffect, false)
  | .duo => let t := s.duoCompare (s.duo.ptn.length + 1); (t, t.duoDue && decide (t.duo.ptn.length = s.duo.ptn.length))
  | .issue i =>
    match s.flight i with
    | none => (s, true)
    | some x =>
      match s.place x with
      | none => (s, true)
      | some (b, c, n) =>
        let (t, stuck) := s.issueNow x b c n
        (if stuck then t else t.enterExchange x, stuck)
  | .plan => s.planNow look
  | .runOut => (s.runOut, false)
  | .stopDone => (s.faultNow, false)
  | .killLater =>
    let b := s.drn.beat + 1
    let free := match s.beatLimit with | some l => decide (b ≤ l) | none => true
    ((if free then s.passBeats b else s).faultNow.autoReset s.job.chk, false)

/-! ### The run -/

/-- What a command of the table runs the machine to. -/
inductive Goal where
  /-- command `idx` has reached its planned beat, and that beat's events are done -/
  | planned (idx : Nat)
  /-- command `idx` has retired, and that beat's events are done -/
  | gone (idx : Nat)
  /-- the issue of command `idx`, not yet made -/
  | issue (idx : Nat)
  /-- the next retirement, not yet made -/
  | completion
  /-- the batch boundary that falls due, not yet made -/
  | boundary
  /-- this beat's events, up to its next retirement -/
  | beatEnd
  /-- as far as the machine can go -/
  | ahead
  deriving DecidableEq, Repr

/-- The beat at which a goal is reached, once that is known. -/
def State.goalBeat (s : State) : Goal → Option Nat
  | .planned i =>
    if s.job.disp.any (fun d => d.idx == i) then none
    else some (max s.drn.beat (((s.flight i).map (fun f => f.planned)).getD 0))
  | .gone i => if s.job.disp.any (fun d => d.idx == i) || (s.flight i).isSome then none else some s.drn.beat
  | .beatEnd => some s.drn.beat
  | _ => none

/-- A goal before which a retirement stops the run. -/
def Goal.stopsAt (g : Goal) (e : Ev) : Bool :=
  match g, e with
  | .completion, .retire _ => true
  | .boundary, .bound => true
  | .beatEnd, .retire _ => true
  | .issue i, .issue j => i == j
  | _, _ => false

/-- The beat before whose events the machine waits: the stream's last planned beat, which does not execute before a
later command has been decoded (R195, R210), a DECIDE's flags, and the first line that a landing buffer lacks. A row
of the table that is a command of the stream stands for the Chanter having decoded what its planned beat needs. Log
entry 20: DESIGN CHOICE. Log entry 141: DEDUCED. -/
def State.dueBeat (s : State) (g : Goal) : Option Nat :=
  optMin (optMin s.flagLimit s.landingLimit) (match g with | .planned _ => none | _ => s.streamLimit)

/-- Whether command `i` is about to issue. -/
def State.aboutTo (s : State) (i : Nat) : Bool :=
  s.jobSt == .running && s.dev == .up && !s.clk.stopped && (match s.nextDue with
    | some ⟨b, _, _, .issue j⟩ => j == i && decide (b ≤ s.drn.beat)
    | _ => false)

/-- The job runs towards a goal until it is reached or a due point is missed. `fuel` bounds the
events. Log entry 20: DESIGN CHOICE. -/
def State.run : Goal → Nat → State → State
  | _, 0, s => s
  | g, fuel + 1, s =>
    if s.jobSt ≠ .running ∨ s.dev ≠ .up ∨ s.clk.stopped = true ∨ (s.job.crPend ≠ [] ∧ s.job.kill = none) then s
    else
      let lim := optMin (s.goalBeat g) s.beatLimit
      let due := s.dueBeat g
      match s.nextDue with
      | none => match optMin lim due with | some b => s.passBeats b | none => s
      | some d =>
        if (match lim with | some l => decide (l < d.beat) | none => false) || (match due with | some l => decide (l ≤ d.beat) | none => false)
        then s.passBeats ((optMin lim due).getD 0)
        else if g.stopsAt d.ev then s.passBeats d.beat
        else
          let look := fun (i : Nat) (t : State) =>
            let v := State.run (.issue i) fuel t
            (v, v.aboutTo i)
          let (t, stuck) := (s.passBeats d.beat).happen look d.ev
          let t := t.followPhase s.job.phase
          if stuck then t else State.run g fuel t

/-- Events a run can meet: each command is planned, issues and retires, and each COMMIT brings a
boundary; a partner's boundary is compared once. -/
def State.runFuel (s : State) : Nat := 5 * (s.job.flights.length + s.job.disp.length) + s.duo.ptn.length + 8

/-- A run with enough fuel. Log entry 20: DESIGN CHOICE. -/
def State.runTo (s : State) (g : Goal) : State := s.run g s.runFuel

end Sys2Proof.Machine
end

