-- ==== Sys2Proof/Machine/Commands.lean ====
section
/-! DEFINITION. The meanings of the commands of the stream (R216), of their dispatch, fault, completion and
outcome (R182, R189, R201, R274, R291), of holds (R196 to R199) and of what arrives for a command
(R161, R337, R499). -/
namespace Sys2Proof.Machine

/-! ### Dispatch -/

/-- A command's words as a decoded command: words that are none keep their header and the field at
fault (R213, R216). -/
def dispOf (idx : Nat) (pass : Option (Nat × Nat × DWord)) (pos : SegSt) (ws : List Word) : Disp :=
  match decodeCmd ws with
  | .ok c => ⟨idx, c, pass, none, pos⟩
  | .error f => ⟨idx, .wait ⟨hdrOf (headerFields.map (fieldOf ws)), 0, 0⟩, pass, some f, pos⟩

/-- Where the stream stands after a command of a pass (R211). -/
def SegDesc.after (d : SegDesc) (all rest : List (List Word)) (n : Nat) : SegSt :=
  if !rest.isEmpty then .pass d all rest n
  else if n + 1 < d.repeats then .pass d all all (n + 1)
  else if d.last then .ended
  else .desc d.nsp d.next 0

/-- The next fetched command, decoded, with the stream behind it. -/
def State.fetched (s : State) : Option (Disp × SegSt) :=
  match s.job.seg with
  | .pass d all (w :: rest) n =>
    let first := if rest.length + 1 = all.length then some (d.ncmd, n, d.cdig) else none
    some (dispOf s.job.next first s.job.seg w, d.after all rest n)
  | _ => none

/-- How many commands more the IOD may fetch: no more than 8,192 ahead of the earliest unissued one (R211). -/
def State.fetchRoom (s : State) : Nat := s.nextIssue + 8192 - s.job.next

/-- Whether the Chanter takes commands: from ARMED on (R207), at most 8,192 ahead of the earliest unissued one (R211), and
none after a stop or a MUTE END. -/
def State.takes (s : State) : Bool :=
  (s.jobSt == .armed || s.jobSt == .running || s.jobSt == .held || s.jobSt == .paused) && s.job.open
    && !s.job.disp.any (fun d => d.cmd.isEnd) && decide (0 < s.fetchRoom)

/-- Adds a decoded command. -/
def Job.accept (j : Job) (d : Disp) (seg : SegSt) : Job :=
  { j with disp := j.disp ++ [d], next := j.next + 1, seg := seg }

/-- The index under which a command runs, with the command decoded if it was not: one decoded before, the next
fetched one, or one that the Chanter takes now; none where it takes no more. -/
def State.enqueue (s : State) (c : Cmd) : Option (Nat × State) :=
  match s.job.disp.find? (fun d => d.cmd == c && d.bad.isNone) with
  | some d => some (d.idx, s)
  | none =>
    if !s.takes then none
    else
      match s.fetched with
      | some (d, seg) =>
        if d.cmd = c ∧ d.bad = none then some (d.idx, { s with job := s.job.accept d seg })
        else some (s.job.next, { s with job := s.job.accept ⟨s.job.next, c, none, none, s.job.seg⟩ s.job.seg })
      | none => some (s.job.next, { s with job := s.job.accept ⟨s.job.next, c, none, none, s.job.seg⟩ s.job.seg })

/-- A command of the stream: it is decoded, and the machine runs up to its planned beat. -/
def State.runCmd (s : State) (c : Cmd) : State :=
  match s.enqueue c with
  | some (i, t) => t.runTo (.planned i)
  | none => s

/-! ### The commands of the stream -/

/-- MMA (R60). -/
def execMma (c : MmaCmd) (s : State) : Host.Outcome State Fault Refusal := .next (s.runCmd (.mma c))
/-- MEW (R80). -/
def execMew (c : MewCmd) (s : State) : Host.Outcome State Fault Refusal := .next (s.runCmd (.mew c))
/-- LRA (R311). -/
def execLra (c : LraCmd) (s : State) : Host.Outcome State Fault Refusal := .next (s.runCmd (.lra c))
/-- VPROG (R86). -/
def execVprog (c : VprogCmd) (s : State) : Host.Outcome State Fault Refusal := .next (s.runCmd (.vprog c))
/-- QNT (R130). -/
def execQnt (c : QntCmd) (s : State) : Host.Outcome State Fault Refusal := .next (s.runCmd (.qnt c))
/-- DQT (R136). -/
def execDqt (c : DqtCmd) (s : State) : Host.Outcome State Fault Refusal := .next (s.runCmd (.dqt c))
/-- VRED (R124). -/
def execVred (c : VredCmd) (s : State) : Host.Outcome State Fault Refusal := .next (s.runCmd (.vred c))
/-- MOVE (R156). -/
def execMove (c : MoveCmd) (s : State) : Host.Outcome State Fault Refusal := .next (s.runCmd (.move c))
/-- GATH (R167). -/
def execGath (c : GathCmd) (s : State) : Host.Outcome State Fault Refusal := .next (s.runCmd (.gath c))
/-- DIG (R218). -/
def execDig (c : DigCmd) (s : State) : Host.Outcome State Fault Refusal := .next (s.runCmd (.dig c))
/-- COLL (R331). -/
def execColl (c : CollCmd) (s : State) : Host.Outcome State Fault Refusal := .next (s.runCmd (.coll c))
/-- WAIT (R219). -/
def execWait (c : WaitCmd) (s : State) : Host.Outcome State Fault Refusal := .next (s.runCmd (.wait c))
/-- SIGNAL (R219). -/
def execSignal (c : SignalCmd) (s : State) : Host.Outcome State Fault Refusal := .next (s.runCmd (.signal c))
/-- PHASE (R440). -/
def execPhase (c : PhaseCmd) (s : State) : Host.Outcome State Fault Refusal := .next (s.runCmd (.phase c))
/-- STEP (R225). -/
def execStepCmd (h : Hdr) (s : State) : Host.Outcome State Fault Refusal := .next (s.runCmd (.stepc h))
/-- DECIDE (R274). -/
def execDecideCmd (c : DecideCmd) (s : State) : Host.Outcome State Fault Refusal := .next (s.runCmd (.decide c))
/-- COMMIT (R230). -/
def execCommit (h : Hdr) (s : State) : Host.Outcome State Fault Refusal := .next (s.runCmd (.commit h))
/-- MUTE END (R221). -/
def execMuteEnd (h : Hdr) (s : State) : Host.Outcome State Fault Refusal := .next (s.runCmd (.mute h false))
/-- MUTE PAUSE (R220). -/
def execMutePause (h : Hdr) (s : State) : Host.Outcome State Fault Refusal := .next (s.runCmd (.mute h true))

/-- SNAP with what host memory holds, where it reads its target entry (R390, R392, R393). -/
def execSnap (c : SnapCmd) (host : HostMem) (s : State) : Host.Outcome State Fault Refusal :=
  match s.enqueue (.snap c) with
  | some (i, t) => .next (((t.runTo (.planned i)).snapIssue host).runTo (.planned i))
  | none => .next s

/-! ### Dispatch, faults, completions -/

/-- COMMAND_DISPATCH: the next fetched command is decoded, at most 8,192 ahead of the earliest unissued
one (R189, R211). -/
def execCommandDispatch (s : State) : Host.Outcome State Fault Refusal :=
  match s.fetched with
  | some (d, seg) =>
    if s.takes then .next { s with job := s.job.accept d seg } else .next s
  | none => .next s

/-- COMMAND_FAULT_AT_ISSUE: the machine runs through the planned beat of the earliest unissued command
(R201). -/
def execCommandFaultAtIssue (s : State) : Host.Outcome State Fault Refusal := .next (s.runTo (.planned s.nextIssue))

/-- The next retirement due in this beat, if it can be made. -/
def State.dueNow (s : State) : Option Flight :=
  match s.nextDue with
  | some ⟨b, _, _, .retire i⟩ =>
    if b ≤ s.drn.beat then (s.flight i).filter (fun f => !s.retireBlocked f) else none
  | _ => none

/-- COMMAND_COMPLETION: the next command completes, with what its checkers found (R182). -/
def execCommandCompletion (obs : List CheckObs) (s : State) : Host.Outcome State Fault Refusal :=
  let t := s.runTo .completion
  if t.jobSt = .running ∧ t.dev = .up then
    match t.dueNow with
    | some f => .next (((t.retireOne f obs).followPhase t.job.phase).runTo .beatEnd)
    | none => .next t
  else .next t

/-- The earliest command in flight of a kind. -/
def State.firstOf (s : State) (p : Cmd → Bool) : Option Flight := s.job.flights.find? (fun f => p f.cmd)

/-- DECIDE_OUTCOME: the machine runs through the DECIDE's completion (R274). -/
def execDecideOutcome (s : State) : Host.Outcome State Fault Refusal :=
  match s.firstOf (fun c => match c with | .decide _ => true | _ => false) with
  | some f => .next (s.runTo (.gone f.idx))
  | none => .next s

/-- The words in error that the copy of logical core `l` reads, one after another: how many there are, where they lie and
whether each is uncorrectable is free (R23); `seen` holds the corrected events already raised (R176). Log entry 51:
DEDUCED. -/
def State.copyCore (acc : State × List Nat) (l : Nat) : State × List Nat :=
  let (s, seen) := acc
  let k := s.free + 1
  let n := Config.freeNat s.free
  (List.range n).foldl (fun v i =>
    let a := Config.freeNat (k + 2 * i) % 0x620000
    v.1.copyWord (s.job.boundIdx.getD s.nextIssue) v.2 (.sram l a (decide (0x600000 ≤ a)) (Config.freeBit (k + 2 * i + 1))))
    ({ s with free := k + 2 * n }, seen)

/-- What the remap copies of a boundary find, one copy after another in ascending logical core (R24). -/
def State.copyFinds (s : State) : State :=
  (((s.nextRemap.map (fun p => p.1)).foldl (fun l c => insertNat c l) []).foldl State.copyCore (s, [])).1

/-- A job whose stop is decided stops. -/
def State.stopKilled (s : State) : State := if s.job.kill.isSome then s.faultNow.autoReset s.job.chk else s

/-- BATCH_BOUNDARY: the boundary that is due, or the next COMMIT's (R23, R291); the machine then goes through the beat. At
launch no beat's events follow, and an uncorrectable word of a copy stops the job there. -/
def execBatchBoundary (s : State) : Host.Outcome State Fault Refusal :=
  let t := if !s.job.bound && (s.firstOf (fun c => match c with | .commit _ => true | _ => false)).isSome then s.runTo .boundary else s
  if t.jobSt = .running ∧ t.dev = .up ∧ t.clk.stopped = false ∧ t.boundary.isSome then
    let u := t.copyFinds
    let v := u.boundary.getD u
    .next (match t.job.boundIdx with | some i => v.runTo (.gone i) | none => v.stopKilled)
  else .next t

/-- PAUSE_GRANT: with a PAUSE or a pre-emption asked for, the machine runs to its next command boundary (R412). -/
def execPauseGrant (s : State) : Host.Outcome State Fault Refusal :=
  .next (if s.asked then s.runTo .ahead else s)

/-! ### Holds -/

/-- The votes that name a cause of R198 and a core of the job. -/
def State.goodVotes (s : State) (vs : List Vote) : List Vote :=
  vs.filter (fun v => decide (v.cause.toNat < 12) && (v.core == 0xFF || decide (v.core.toNat < s.nActive)))

/-- HOLD_BEGIN: the first held cycle of a hold, or one more with these votes (R196, R198). Log entry 21: DESIGN
CHOICE. -/
def execHoldBegin (votes : List Vote) (s : State) : Host.Outcome State Fault Refusal :=
  .next (if s.live && s.dev == .up then s.enterHold (s.goodVotes votes) else s)

/-- HOLD_END: `cycles` more held cycles, and then beats again (R197). Log entry 21: DESIGN CHOICE. Log entry 108:
DESIGN CHOICE. -/
def execHoldEnd (cycles : Nat) (s : State) : Host.Outcome State Fault Refusal :=
  if s.jobSt = .held ∧ s.dev = .up ∧ s.clk.stopped = false then .next ((s.passHeld cycles).leaveHold) else .next s

/-- HOLD_LENGTH_WARNING: the hold in progress reaches DRN_HOLDWARN cycles (R199). -/
def execHoldLengthWarning (s : State) : Host.Outcome State Fault Refusal :=
  if s.jobSt = .held ∧ s.dev = .up ∧ s.clk.stopped = false ∧ s.drn.len < s.drn.warn.toNat then .next (s.passHeld (s.drn.warn.toNat - s.drn.len)) else .next s

/-! ### What arrives for a command -/

/-- The event of a bad chunk (R161). Log entry 30: DEDUCED. -/
def badChunkCode (sp : Nat) : Nat := if sp = 3 then 0x4012 else if sp = 4 then 0x4011 else 0x4010

/-- A chunk's delivery has failed once more: after the third resend the command fails (R161), a shard for
`why` of R304. Log entry 30: DEDUCED. -/
def State.chunkFail (s : State) (f : Flight) (chunk why : Nat) : State :=
  let n := (f.tries.lookup chunk).getD 0 + 1
  let g := { f with tries := put f.tries chunk n }
  if n < 4 then (if s.fromSpace f = 4 then s.askChunk f chunk else s).setFlight g
  else
    let g := { g with dead := insertNat chunk g.dead }
    let shard : Bool := match f.cmd with | .move c => c.shard | _ => false
    let t := if why = 3 ∧ shard then s else s.evCmd 0x4013 f.cmd.hdr.lcore.toNat FieldRef.nil f.idx chunk 0
    (t.askNext g).setFlight (if shard then g.mark reasonKey why else g.mark faultKey 0x4013)

/-- A whole shard has arrived: its digest, and up to three more fetches (R304). -/
def State.shardWhole (s : State) (f : Flight) (c : MoveCmd) : State :=
  if !c.shard || f.got.length < f.need then s
  else
    match s.shardEntry c with
    | none => s
    | some (_, d) =>
      if s.pdChunks (s.srcBytes f) = d then s
      else
        let n := (f.note fetchKey).getD 0 + 1
        if n < 4 then (s.askFirst f).setFlight { f.mark fetchKey n with got := [], tries := [(fetchKey, n)] }
        else s.setFlight (f.mark reasonKey 1)

/-- A good chunk from outside, with its 0x11 entry when the host sent it (R165, R252). -/
def State.chunkGood (s : State) (f : Flight) (chunk : Nat) (data : List Byte) (d : Nat) : State :=
  let g := { f with got := (chunk, data) :: f.got }
  let t := s.setFlight g
  let t := if s.fromSpace f = 3 then
    t.jPut (t.jCmd 0x11 f.cmd.hdr.lcore.toNat chunk f.idx (65536 * chunk) d) else t
  let t := t.askNext g
  match f.cmd with
  | .move c => t.shardWhole g c
  | _ => t

/-- The key under which a chunk that has come is noted. -/
def Flight.chunkKey (f : Flight) (chunk : Nat) : Nat := if f.need = 0 then hereKey + chunk else chunk

/-- The chunks that have come. -/
def Flight.came (f : Flight) : Nat :=
  if f.need = 0 then (f.got.filter (fun g => decide (hereKey ≤ g.1))).length else f.got.length

/-- Whether a chunk is in flight: chunks issue in ascending order, at most NTAG of them at once (R160). -/
def Flight.inReach (f : Flight) (chunk : Nat) : Bool := decide (chunk < f.ntag + f.came + f.dead.length)

/-- CHUNK_ARRIVAL: a chunk of a transfer arrives with its sender's digest (R159, R161). What moves within
the module has its effect by R192; there a good chunk makes room for the next one. -/
def execChunkArrival (cidx chunk : Nat) (data : List Byte) (dig : DWord) (s : State) : Host.Outcome State Fault Refusal :=
  match s.flight cidx with
  | none => .next s
  | some f =>
    if !f.issued || s.chunkCount f ≤ chunk || !s.chunkFits f chunk data.length || !f.inReach chunk || (f.got.lookup (f.chunkKey chunk)).isSome || chunk ∈ f.dead then
      .next s
    else
      let d := s.pd data
      if d = dig.toNat then
        .next (if f.need = 0 then s.setFlight { f with got := f.got ++ [(f.chunkKey chunk, [])] } else s.chunkGood f chunk data d)
      else
        .next ((s.evCmd (badChunkCode (s.fromSpace f)) f.cmd.hdr.lcore.toNat FieldRef.nil f.idx chunk 0).chunkFail f chunk 2)

/-- The code of a host read's end in 0x6042. -/
def readCode : HostRead → Nat
  | .ok => 0 | .timeout => 1 | .unsupported => 2 | .abort => 3 | .poisoned => 4

/-- The peer a MOVE names, with the address there. -/
def peerOf (c : Cmd) : Nat × Nat :=
  match c with
  | .move m => if m.dspace = 4 then (m.dext.rank.toNat, m.daddr.toNat) else (m.sext.rank.toNat, m.saddr.toNat)
  | .dig d => (d.ext.rank.toNat, d.addr.toNat)
  | _ => (0xFFFF, 0)

/-- ROCE_RESPONSE_RECEIVE: the peer has taken every write of a MOVE that has left, and the next chunks go out, or it refuses
the operation (R160, R337, R339). Log entry 63: DEDUCED. -/
def execRoceResponseReceive (cidx : Nat) (ok : Bool) (s : State) : Host.Outcome State Fault Refusal :=
  match s.flight cidx with
  | none => .next s
  | some f =>
    if !f.issued || (f.acks = 0 && s.fromSpace f ≠ 4) then .next s
    else if ok then
      let g := { f with acks := f.acks - f.ntag }
      .next ((s.sendChunks g).setFlight g)
    else
      let (r, a) := peerOf f.cmd
      let t := s.evCmd 0x6011 f.cmd.hdr.lcore.toNat FieldRef.nil cidx r a
      let g := { f with acks := 0, dead := (List.range f.need).filter (fun k => (f.got.lookup k).isNone) }
      .next (t.setFlight (g.mark faultKey 0x6011))

end Sys2Proof.Machine
end

