-- ==== Sys2Proof/Machine/Job.lean ====
section
/-! DEFINITION. The life of a job: the ring (R205, R510), LOADING (R206, R207, R322, R324, R367, R387, R400,
R418), launch (R208, R349), the fetch of its stream (R209 to R211) and the host's requests (R222 to
R224, R421). -/
namespace Sys2Proof.Machine

/-! ### The descriptor (R206) -/

/-- `n` bytes of a string from byte `o`, as a number. -/
def numAt (bs : List Byte) (o n : Nat) : Nat := leOf ((bs.drop o).take n)

/-- A descriptor's fields. -/
def descOf (b : List Byte) : Desc :=
  let w2 := numAt b 8 4
  { jobid := BitVec.ofNat 64 (numAt b 0 8), prio := bits w2 31 28, cls := bits w2 27 26, lmode := bitAt w2 25, segsp := bitAt w2 24
    flagevt := bits w2 5 0, rank := numAt b 14 2, nrank := numAt b 12 2, cfgdig := BitVec.ofNat 64 (numAt b 16 8)
    seed := BitVec.ofNat 64 (numAt b 24 8), digkey := BitVec.ofNat 64 (numAt b 32 8), segaddr := numAt b 40 8
    craddr := numAt b 48 8, crlog2 := numAt b 56 4 % 32, pataddr := numAt b 64 8, patdig := BitVec.ofNat 64 (numAt b 72 8)
    grpaddr := numAt b 80 8, grpdig := BitVec.ofNat 64 (numAt b 88 8), jrnaddr := numAt b 96 8, jrnpages := numAt b 104 4
    lwall := numAt b 112 8 }

/-- A 64-bit descriptor field by its first byte. -/
def descF (byte : Nat) : FieldRef := fieldAt (byte / 4) 31 0

/-- Whether bytes are all zero. -/
def zeros (b : List Byte) (o n : Nat) : Bool := ((b.drop o).take n).all (· == 0)

/-- Check 1 of R207 in the order of the descriptor's bytes. -/
def descChk (b : List Byte) : Option FieldRef :=
  let d := descOf b
  let k := d.digkey.toNat
  [ (d.cls == 3, fieldAt 2 27 26), (bits (numAt b 8 4) 23 6 != 0, fieldAt 2 23 6),
    (decide (d.nrank ≤ d.rank ∧ d.nrank ≠ 0), fieldAt 3 31 16), (d.nrank == 0, fieldAt 3 15 0),
    (decide (k < 2 ∨ 2 ^ 61 - 2 < k), descF 32),
    (d.segaddr % 64 != 0 || (d.segsp && decide (hbmEnd ≤ d.segaddr)), descF 40), (d.craddr % 4096 != 0, descF 48),
    (decide (d.crlog2 < 8 ∨ 20 < d.crlog2), fieldAt 14 4 0), (bits (numAt b 56 4) 31 5 != 0, fieldAt 14 31 5),
    (!zeros b 60 4, descF 60), (d.pataddr % 4096 != 0, descF 64),
    ((d.grpaddr == 0) != (d.nrank == 1), descF 80), (d.grpaddr == 0 && d.grpdig != 0, descF 88),
    (d.jrnaddr % pageSize != 0, descF 96), (d.jrnpages == 0, descF 104), (!zeros b 108 4, descF 108) ]
  |>.find? (fun c => c.1) |>.map (fun c => c.2) |>.or
    (((List.range 34).find? (fun i => !zeros b (120 + 4 * i) 4)).map (fun i => descF (120 + 4 * i)))

/-! ### The rank-group table (R323, R324) -/

/-- The lesser of two offsets. -/
def lowest : Option Nat → Option Nat → Option Nat
  | none, b => b
  | a, none => a
  | some a, some b => some (min a b)

/-- The lowest byte offset of a field that breaks R324, for a table of `n` ranks held by rank `own`. Entries and
lists that lie outside the table break it by the offset that places them. -/
def grpChk (t : List Byte) (n own : Nat) : Option Nat :=
  let v := numAt t
  let len := t.length
  let ro := v 16 8
  let go := v 24 8
  let ng := v 8 4
  let least := fun (l : List (Bool × Nat)) => (l.filter (fun c => c.1)).foldl (fun m c => lowest m (some c.2)) none
  let badR := decide (len < 64) || ro % 64 != 0 || decide (len < ro + 48 * n)
  let badG := decide (len < 64 ∨ 4096 < ng) || go % 64 != 0 || decide (len < go + 8 * ng)
  let hd := least [(decide (len < 64), 0), (v 0 2 != 1, 0), (v 2 2 != 0, 2), (v 4 4 != n, 4), (decide (4096 < ng), 8),
    (v 12 4 != 0, 12), (badR, 16), (badG, 24), (!zeros t 32 32, 32)]
  let rank := fun (r : Nat) =>
    let e := ro + 48 * r
    let f := v (e + 32) 1
    least [(bitAt f 1 && zeros t (e + 16) 16, e + 16), (decide (3 < f), e + 32), (!zeros t (e + 33) 15, e + 33)]
  let rdma := (List.range n).filter (fun r => r != own && bitAt (v (ro + 48 * r + 32) 1) 0)
  let ranks := if badR then none else
    lowest ((List.range n).findSome? rank) (rdma[1024]?.map (fun r => ro + 48 * r + 32))
  let grp := fun (g : Nat) =>
    let e := go + 8 * g
    let o := v e 4
    let m := v (e + 4) 2
    let out := o % 2 != 0 || decide (len < o + 2 * m)
    lowest (least [(out, e), (m == 0 || decide (n < m), e + 4), (v (e + 6) 2 != 0, e + 6)])
      (if out then none else
        ((List.range m).find? (fun i =>
          decide (n ≤ v (o + 2 * i) 2) || (i != 0 && decide (v (o + 2 * i) 2 ≤ v (o + 2 * (i - 1)) 2)))).map (fun i => o + 2 * i))
  let grps := if badG then none else (List.range ng).foldl (fun m g => lowest m (grp g)) none
  lowest hd (lowest ranks grps)

/-! ### The loading checks -/

/-- A page attribute image as a table: pages of the module in ascending order, zero entries left out. -/
def patOf (es : List (Nat × Half)) : List (Nat × Nat) :=
  es.foldr (fun e l => if e.1 < nPages ∧ e.2 ≠ 0 then putAt e.1 e.2.toNat l else l) []

/-- Whether an entry is VALID and RSV. -/
def isRsv (e : Nat) : Bool := bitAt e 15 && bitAt e 9

/-- Whether every device reserve page of an image is VALID and RSV (R322, R387). -/
def State.reservesOk (s : State) (pat : List (Nat × Nat)) : Bool :=
  let need := 4 * (s.netPages.1 + s.netPages.2 + 200 + s.stagePages)
  (pat.filter (fun e => s.isReserve e.1 && isRsv e.2)).length == need

/-- Events of an object fetched from host memory or, with `code` 0x4011, from a peer, whose deliveries arrive with bad
digests (R161): true when the fourth fails too. Reads of it that ended in an error count among them (R499). -/
def State.fetchBad (s : State) (code bad : Nat) (f : FieldRef) (base addr : Nat) : State × Bool :=
  let e := sparse s.pci.readErr base
  let u := { s with pci := { s.pci with readErr := s.pci.readErr.filter (fun x => x.1 != base) } }
  let t := (List.range (min bad (4 - e))).foldl (fun u _ => u.event code 0xFF 0 FieldRef.nil noIdx (BitVec.ofNat 64 addr) 0) u
  if e + bad < 4 then (t, false) else (t.event 0x4013 0xFF 0 f noIdx (BitVec.ofNat 64 addr) 0, true)

/-- The same of an object at a host address. -/
def State.hostFetch (s : State) (bad : Nat) (f : FieldRef) (addr : Nat) : State × Bool := s.fetchBad 0x4012 bad f addr addr

/-- An event of a loading check. Log entry 32: DEDUCED. -/
def State.loadEv (s : State) (code : Nat) (f : FieldRef) (a0 a1 : Nat) : State :=
  s.event code 0xFF 0 f noIdx (BitVec.ofNat 64 a0) (BitVec.ofNat 64 a1)

/-- The groups of an audit or replica plan (R367). -/
def auditPlanChk (t : List Byte) (d : Desc) (aud rep : Word) : Option Nat :=
  let ng := numAt t 8 4
  let members := fun (g : Nat) =>
    let e := numAt t 24 8 + 8 * g
    (List.range (numAt t (e + 4) 2)).map (fun i => numAt t (numAt t e 4 + 2 * i) 2)
  let ag := bits aud.toNat 15 0
  let rg := bits rep.toNat 15 0
  let audBad := bitAt aud.toNat 31 && (d.nrank == 1 || decide (ng ≤ ag) || decide (d.rank ∈ members ag)
    || decide (bits aud.toNat 23 16 + 1 < (members ag).length))
  let repBad := bitAt rep.toNat 31 && (d.nrank == 1 || (rg != 0xFFFF && (decide (ng ≤ rg) || !decide (d.rank ∈ members rg))))
  if audBad then some 0x600080 else if repBad then some 0x600084 else none

/-- The step word of the restored image. -/
def State.imageStep (s : State) : Nat := (s.mqt.rstHdr.map (fun h => h.stepw.toNat)).getD 0

/-- The checks of LOADING in order: the state with their events, and whether all passed. -/
def State.loadChecks (s : State) (inp : LoadInput) : State × Bool :=
  let j := s.job
  let d := j.desc
  let pat := patOf inp.pat
  match descChk j.raw with
  | some f => (s.loadEv 0x2020 f j.descAddr 0, false)
  | none =>
  let grade := if s.fus.grade = 0x02 then 1 else 0
  if d.cls ≠ 2 ∧ d.cls ≠ grade then (s.loadEv 0x9011 (fieldAt 2 27 26) d.cls grade, false)
  else if d.cfgdig ≠ s.pln.cfgDig then (s.loadEv 0x9012 (descF 16) d.cfgdig.toNat s.pln.cfgDig.toNat, false)
  else
  let (s, dead) := s.hostFetch (if patDigest s.key pat = d.patdig.toNat then inp.patBad else 4) (descF 64) d.pataddr
  if dead then (s, false)
  else if inp.pat.any (fun e => e.2.getLsbD 12 || e.2.getLsbD 11) then (s.loadEv 0x2020 (descF 64) j.descAddr 0, false)
  else
  let (s, dead) := if d.nrank = 1 then (s, false)
    else s.hostFetch (if pd61 s.key inp.grp = d.grpdig.toNat then inp.grpBad else 4) (descF 80) d.grpaddr
  if dead then (s, false)
  else
  let gc := if d.nrank = 1 then none else grpChk inp.grp d.nrank d.rank
  match gc with
  | some o => (s.loadEv 0x2021 (descF 80) d.grpaddr o, false)
  | none =>
  let tbl : List Byte := if d.nrank = 1 then [] else inp.grp
  match auditPlanChk tbl d j.audCtl j.repCtl with
  | some r => (s.loadEv 0x2022 FieldRef.nil r 0, false)
  | none =>
  let jp := d.jrnaddr / pageSize
  if !(List.range d.jrnpages).all (fun i => isRsv (sparse pat (jp + i))) then (s.loadEv 0x2020 (descF 96) j.descAddr 0, false)
  else if !s.reservesOk pat then (s.loadEv 0x2020 (descF 64) j.descAddr 0, false)
  else if j.verifying && (j.stepBase.toNat != s.imageStep || bitAt j.rplCtl.toNat 0) then
    (s.loadEv 0xA046 FieldRef.nil j.stepBase.toNat s.imageStep, false)
  else
  match s.rcv.parked with
  | none => (s, true)
  | some p =>
    if 1 < d.nrank then (s.loadEv 0x9015 (fieldAt 3 15 0) 1 d.nrank, false)
    else
      match pat.find? (fun e => bitAt e.2 15 && !s.isReserve e.1 && bitAt (sparse p.pat.cur e.1) 15) with
      | some e => (s.loadEv 0x9015 (descF 64) 2 e.1, false)
      | none => (s, true)

/-! ### The ring and LOADING -/

/-- An ignored host-interface access (R509). -/
def State.ignored (s : State) (reason off : Nat) : State := s.ev 0x9017 reason off

/-- A pre-emption is asked for at the next boundary (R222, R413). -/
def State.askPreempt (s : State) : State := { s with job := { s.job with preempt := true } }

/-- JOB_DOORBELL: a new producer index (R510), and a pre-emption request where R222 makes one. -/
def execJobDoorbell (value : Word) (prios : List (BitVec 4)) (s : State) : Host.Outcome State Fault Refusal :=
  let r := s.ring
  let p : Half := value.truncate 16
  let n := (p - r.prod).toNat
  let ahead := (p - r.cons).toNat
  if s.pln.recov then .next s
  else if r.log2 = 0 ∨ 2 ^ r.log2 < ahead ∨ ahead < (r.prod - r.cons).toNat then .next (s.ignored 1 0x10000C)
  else
    let new := (prios ++ List.replicate n 0).take n
    let t := { s with ring := { r with prod := p, waiting := r.waiting ++ new } }
    let up := new.any (fun x => decide (s.job.desc.prio < x.toNat))
    .next (if s.live && s.dev == .up && up && s.rcv.parked.isNone then t.askPreempt else t)

/-- What a job leaves in the collective protocol is gone when the next one loads. -/
def Net.forJob (n : Net) : Net :=
  { n with retOvf := false, retain := [], unkept := [], peers := [], flows := [], flagRx := [], chunks := [], sigSeen := [],
           rdmaSpd := [], conns := [] }

/-- A job on entering LOADING, from its descriptor's bytes and what the registers latch. Log entry 44: DEDUCED. -/
def State.newJob (s : State) (desc : List Byte) : Job :=
  let a := s.aud
  { Job.none with
    desc := descOf desc, raw := desc, descAddr := s.ring.baseHi.toNat * 2 ^ 32 + s.ring.baseLo.toNat + 256 * (s.ring.cons.toNat % 2 ^ s.ring.log2)
    stepBase := a.stepBase, rplCtl := a.rplCtl, rplRef := a.rplRefHi.toNat * 2 ^ 32 + a.rplRefLo.toNat, audCtl := a.audCtl, repCtl := a.repCtl
    verifying := s.mqt.rstSt == 2 && s.mqt.verify }

/-- JOB_LOAD_BEGIN: the descriptor at the consumer index is read and its job enters LOADING (R205,
R419). -/
def execJobLoadBegin (desc : List Byte) (s : State) : Host.Outcome State Fault Refusal :=
  let free := match s.rcv.parked with | none => true | some p => !p.served
  if s.jobSt = .empty ∧ s.dev = .up ∧ s.ring.cons ≠ s.ring.prod ∧ s.ring.log2 ≠ 0 ∧ free = true ∧ desc.length = 256 then
    let j := s.newJob desc
    .next (({ s with
      job := j
      pat := Table.empty, adt := Table.empty
      net := s.net.forJob
      latch := s.latch.filter (fun e => e.1 != 0x100024 && e.1 != 0x100A04)
      duo := { Duo.reset with ptnLoad := s.duo.ptnLoad, ptnArmed := s.duo.ptnArmed, ptnDev := s.duo.ptnDev }
      aud := { s.aud with
        rplMis := false, rplBad := false, rplEtype := 0, rplStep := 0, rplIdx := 0, rplPos := j.rplRef
        amis := false, rmis := false, nomaj := false, sedRank := 0xFFFF }
      rcv := { Rcv.reset with
        cause := s.rcv.cause, slice := s.rcv.slice, parked := s.rcv.parked.map (fun (p : Parked) => { p with served := true }) }
      ring := { s.ring with
        cons := s.ring.cons + 1, waiting := s.ring.waiting.drop 1, crCons := 0, fltIdx := noIdx, fltCode := 0
        tblLo := 0, tblHi := 0, tblTable := 0 } }).setJob .loading)
  else .next s

/-- The peers of a job, all UP at first (R343). -/
def peersOf (d : Desc) : List Peer :=
  ((List.range d.nrank).filter (· != d.rank)).map (fun r => ⟨r, .up, 0, 0, 0, 0, false⟩)

/-- JOB_LOAD_COMPLETE: the checks of LOADING, and ARMED or FAULTED (R207). Log entry 32: DEDUCED. -/
def execJobLoadComplete (inp : LoadInput) (s : State) : Host.Outcome State Fault Refusal :=
  if s.jobSt = .loading ∧ s.dev = .up then
    match s.loadChecks inp with
    | (t, false) => .next t.endLoad
    | (t, true) =>
      let d := t.job.desc
      let u := { t with
        pat := { Table.empty with cur := patOf inp.pat }
        job := { t.job with grpTable := if d.nrank = 1 then [] else inp.grp, seg := .desc d.segsp d.segaddr 0 }
        net := if d.nrank = 1 then t.net else { t.net with peers := peersOf d }
        ring := { t.ring with flagEvt := d.flagevt } }
      .next (((u.copyPat.copyAdt).setJob .armed).duoArmed)
  else .next s

/-- The ranks that this one is connected to: both rank entries have RDMA = 1 (R336). -/
def State.roceRanks (s : State) : List Nat :=
  if bitAt (s.rankFlags s.job.desc.rank) 0 && decide (1 < s.job.desc.nrank) then
    (List.range s.job.desc.nrank).filter (fun r => r != s.job.desc.rank && bitAt (s.rankFlags r) 0)
  else []

/-- The operating point of the prologue (R442). -/
def State.prologuePoint (s : State) : State := if s.cfg 0x0403 = 1 then s.putPoint (bits (s.cfg 0x0405) 3 0) else s

/-- Entry to RUNNING at beat 0 (R208, R248, R291, R299). Log entry 45: DEDUCED. -/
def State.enterRunning (s : State) : State :=
  let t := { s with
    drn := { s.drn with beat := 0 }
    net := { s.net with
      conns := s.roceRanks.map (fun r => ⟨r, 0x10000 + r, 0⟩), peers := s.net.peers.map (fun (q : Peer) => { q with st := .up }) }
    pwr := { s.pwr with nc := none, overload := false, phase := none }
    rcv := { s.rcv with lastBnd := none, sliceNs := 0, sliceEnd := none, sliceAsk := false, hang := 0, adds := [] } }
  let t := t.readCast
  let t := { t with job := { t.job with bound := true, boundIdx := none } }
  let t := (t.openStep.jobRecord.journalOut).setJob .running
  t.prologuePoint

/-- The launch of an ARMED job. -/
def State.launched (s : State) : State :=
  let d := s.job.desc
  let t := if d.lmode then { s with ptp := { s.ptp with wall := max s.ptp.wall d.lwall } } else s
  (if d.lmode && !t.ptp.lock then t.ev 0x6030 d.lwall t.ptp.wall else t).enterRunning

/-- A signal to the arithmetic clocks while they stand is held until they run again (R462). -/
def State.whenAwake (s : State) (w : Wake) : State := { s with clk := { s.clk with wake := s.clk.wake ++ [w] } }

/-- JOB_LAUNCH: at once, or when WALL reaches LWALL (R208, R349); a Duo's modules wait until both are
ARMED (R260). While the clocks stand the launch waits for them (R471). Log entry 45: DEDUCED. -/
def execJobLaunch (s : State) : Host.Outcome State Fault Refusal :=
  if s.jobSt = .armed ∧ s.dev = .up ∧ s.duoReady = true then .next (if s.clk.stopped then s.whenAwake .launch else s.launched)
  else .next s

/-! ### Segments (R209 to R211) -/

/-- A segment descriptor's fields. -/
def segOf64 (sp : Bool) (at_ : Nat) (b : List Byte) : SegDesc :=
  let f := numAt b 14 1
  ⟨sp, at_, numAt b 0 8, numAt b 8 4, numAt b 12 2, bitAt f 2, bitAt f 1, bitAt f 0, BitVec.ofNat 64 (numAt b 16 8), numAt b 24 8⟩

/-- The field at which a segment descriptor breaks R210. Log entry 31: DEDUCED. -/
def segChk (d : SegDesc) (b : List Byte) : Option FieldRef :=
  ([ (d.caddr % 128 != 0 || (d.csp && decide (hbmEnd < d.caddr + 128 * d.ncmd)), descF 0), (decide (512 < d.ncmd), descF 8),
    (d.repeats == 0, fieldAt 3 15 0), (bits (numAt b 14 1) 7 3 != 0, fieldAt 3 23 19), (!zeros b 15 1, fieldAt 3 31 24),
    (!d.last && (d.next % 64 != 0 || (d.nsp && decide (hbmEnd ≤ d.next))), descF 24) ].find? (fun c => c.1)).map (fun c => c.2) |>.or
    (((List.range 6).find? (fun i => !zeros b (32 + 4 * i) 4)).map (fun i => descF (32 + 4 * i)))

/-- Whether the IOD fetches: from ARMED on, and while the device is up. -/
def State.fetches (s : State) : Bool :=
  s.dev == .up && (s.jobSt == .armed || s.jobSt == .running || s.jobSt == .held || s.jobSt == .paused)

/-- Sets where the stream stands. -/
def State.setSeg (s : State) (x : SegSt) : State := { s with job := { s.job with seg := x } }

/-- A delivery of the stream has failed: a further try, or the stream has failed (R161, R210). -/
def State.fetchAgain (s : State) (addr tries : Nat) (again : SegSt) : State :=
  if tries + 1 < 4 then s.setSeg again
  else (s.evCmd 0x4013 0xFF FieldRef.nil s.job.next addr 0).setSeg (.failed 0x4013)

/-- A digest of the stream mismatches (R161, R210): a further try, or the stream has failed. Log entry 31: DEDUCED.
Log entry 42: DEDUCED. -/
def State.badFetch (s : State) (hbm : Bool) (addr tries : Nat) (again : SegSt) : State :=
  (s.evCmd (if hbm then 0x4010 else 0x4012) 0xFF FieldRef.nil s.job.next addr 0).fetchAgain addr tries again

/-- The 64 bytes of a segment descriptor arrive. Bytes of HBM that are not what HBM holds are a bad
delivery. -/
def State.takeDesc (s : State) (sp : Bool) (addr tries : Nat) (b : List Byte) : State :=
  let d := segOf64 sp addr b
  if sp && b != s.hbm.read addr 64 then s.badFetch true addr tries (.desc sp addr (tries + 1))
  else if d.ncmd = 0 then s.setSeg (.unwritten sp addr)
  else if pd61 s.key (b.take 56) ≠ numAt b 56 8 then s.badFetch sp addr tries (.desc sp addr (tries + 1))
  else
    match segChk d b with
    | some f => (s.event 0x2020 0xFF 0 f (BitVec.ofNat 64 s.job.next) (BitVec.ofNat 64 addr) 0).setSeg (.failed 0x2020)
    | none => s.setSeg (.cmds d 0)

/-- SEGMENT_DESCRIPTOR_FETCH (R209). Log entry 42: DEDUCED. -/
def execSegmentDescriptorFetch (data : List Byte) (s : State) : Host.Outcome State Fault Refusal :=
  match s.job.seg with
  | .desc sp addr tries => .next (if s.fetches ∧ data.length = 64 then s.takeDesc sp addr tries data else s)
  | _ => .next s

/-- SEGMENT_DESCRIPTOR_REREAD: a descriptor not yet written is read again (R210). -/
def execSegmentDescriptorReread (data : List Byte) (s : State) : Host.Outcome State Fault Refusal :=
  match s.job.seg with
  | .unwritten sp addr => .next (if s.fetches ∧ data.length = 64 then s.takeDesc sp addr 0 data else s)
  | _ => .next s

/-- COMMAND_SEGMENT_FETCH: the commands of a segment arrive, fetched where they lie within the limit of R211. -/
def execCommandSegmentFetch (data : List Byte) (s : State) : Host.Outcome State Fault Refusal :=
  match s.job.seg with
  | .cmds d tries =>
    if s.fetches ∧ data.length = 128 * d.ncmd ∧ d.ncmd ≤ s.fetchRoom then
      if (d.csp && data != s.hbm.read d.caddr (128 * d.ncmd)) ∨ pd61 s.key data ≠ d.cdig.toNat then
        .next (s.badFetch d.csp d.caddr tries (.cmds d (tries + 1)))
      else
        let all := commandsOf d.ncmd (wordsOf data)
        .next (s.setSeg (.pass d all all 0))
    else .next s
  | _ => .next s

/-! ### Requests (R222 to R224) -/

/-- The job's fault location and code after an ABORT (R223). -/
def State.abortCode (s : State) : State :=
  if s.ring.fltCode = 0 then { s with ring := { s.ring with fltIdx := noIdx, fltCode := 0x9013 } } else s

/-- With protection cleared, what waited for a copy lands in its order (R150). Log entry 122: DESIGN CHOICE. -/
def State.landAll (s : State) : State :=
  ({ s with
    badLines := s.badLines.filter (fun l => !s.mqt.late.any (fun w => decide (w.addr ≤ l ∧ l + 64 ≤ w.addr + w.bytes.length)))
    mqt := { s.mqt with late := [] } }).stores s.mqt.late

/-- Ends an open epoch in failure: protection is cleared and staging freed (R398). -/
def State.epochFail (s : State) (reason : Nat) : State :=
  match s.mqt.epoch with
  | none => s
  | some e =>
    let t := { s with
      wp := []
      mqt := { s.mqt with epoch := none, lastEpoch := e.epoch, lastTgt := e.tgt, lastDone := false, lastFail := true } }
    (t.landAll.ev 0xA047 e.epoch.toNat reason).irq 4

/-- Whether an open epoch belongs to the current job. -/
def State.ownEpoch (s : State) : Bool :=
  match s.mqt.epoch with
  | none => false
  | some e => e.by_ == .job

/-- A job is aborted (R222, R223, R398). -/
def State.abortJob (s : State) : State :=
  let t := (s.ev 0x9013 s.jobSt.code 0).abortCode
  let t := match t.mqt.epoch with
    | some e => if t.ownEpoch && !e.recDone then t.epochFail 5 else t
    | none => t
  match t.jobSt with
  | .running | .held | .paused => t.faultNow
  | .loading | .armed => t.endLoad
  | _ => t

/-- ABORT (R222, R224). Log entry 47: DEDUCED. -/
def execAbort (s : State) : Host.Outcome State Fault Refusal :=
  if s.pln.recov then .next s
  else match s.jobSt with
  | .empty | .faulted | .done => .next (s.reject 1)
  | _ => .next (if s.dev = .recovering then { s with rcv := { s.rcv with abortPend := true } } else s.abortJob)

/-- PAUSE (R222). -/
def execPause (s : State) : Host.Outcome State Fault Refusal :=
  .next (if s.pln.recov then s
    else if s.live && s.dev == .up then { s with job := { s.job with pausePend := true } } else s.reject 2)

/-- The current job's epoch becomes that of a job released or parked. -/
def Mqt.ofJob (m : Mqt) (w : EpochOf) : Mqt :=
  { m with epoch := m.epoch.map (fun (e : Epoch) => if e.by_ = .job then { e with by_ := w } else e) }

/-- What RELEASE clears (R222): the cores' memories and lookup tables, the queues and signal counters,
the page attributes in force. Log entry 44: DEDUCED. -/
def State.releaseJob (s : State) : State :=
  let t := { s with
    cores := s.cores.map (fun (k : Core) => { k with spd := [], lutCur := [], lutNext := [], lutGen := 0, lutRdy := false })
    pat := Table.empty, adt := Table.empty
    duo := { s.duo with own := [], send := [], ptn := [], rds := [], ptnLoad := none, ptnArmed := false, ptnDev := 0, pendMis := none, lastPtn := 0, ptnRds := [], held := [], seen := [] }
    job := { s.job with
      disp := [], flights := [], sigs := List.replicate 64 0, stop := none, kill := none, pausePend := false, preempt := false
      saving := false, bound := false, seg := .ended }
    mqt := s.mqt.ofJob .gone }
  (t.setJob .empty).idleActions

/-- RELEASE (R222, R224): a device in FAILED holds its job. Log entry 47: DEDUCED. -/
def execRelease (s : State) : Host.Outcome State Fault Refusal :=
  .next (if s.pln.recov then s
    else if (s.jobSt = .faulted ∨ s.jobSt = .done) ∧ s.dev = .up then s.releaseJob else s.reject 4)

/-- SLICE_END: the slice has been spent, and a waiting descriptor of no lower PRIO pre-empts (R421). -/
def execSliceEnd (s : State) : Host.Outcome State Fault Refusal :=
  let n := 1000 * s.rcv.slice.toNat
  if s.live && s.dev == .up && decide (n ≠ 0 ∧ n ≤ s.rcv.sliceNs) && s.rcv.sliceEnd.isNone then
    let asks := s.ring.waiting.any (fun x => decide (s.job.desc.prio ≤ x.toNat)) && s.rcv.parked.isNone
    let t := { s with rcv := { s.rcv with sliceEnd := some s.ptp.wall, sliceAsk := asks } }
    .next (if asks then t.askPreempt else t)
  else .next s

/-- JOB_SIGADD: JOB_SIGVAL is added to a counter (R219). A replay adds it again (R404). -/
def execJobSigadd (value : Word) (s : State) : Host.Outcome State Fault Refusal :=
  if !value.getLsbD 31 || s.pln.recov then .next s
  else
    let c := value.toNat % 64
    match s.jobSt with
    | .armed | .running | .held | .paused =>
      .next { s with
        job := { s.job with sigs := upd s.job.sigs c (· + s.ring.sigVal) }
        rcv := { s.rcv with adds := (c, s.ring.sigVal) :: s.rcv.adds } }
    | _ => .next (s.ignored 3 0x100034)

/-- JOB_CRCONS: the host has consumed records (R511), and those that waited are written. -/
def execJobCrconsWrite (value : Word) (s : State) : Host.Outcome State Fault Refusal :=
  if s.pln.recov then .next s
  else if s.job.crProd < value.toNat ∨ value.toNat < s.ring.crCons.toNat then .next (s.ignored 4 0x100038)
  else .next (State.flushRecs s.job.crPend.length { s with ring := { s.ring with crCons := value } })

/-- JOB_RBASE and JOB_RSIZE (R510). -/
def execJobRingRegisterWrite (reg : RingReg) (value : Word) (s : State) : Host.Outcome State Fault Refusal :=
  let off := match reg with | .baseLo => 0x100000 | .baseHi => 0x100004 | .size => 0x100008
  if s.pln.recov then .next s
  else if s.jobSt = .empty ∧ s.rcv.parked.isNone ∧ s.ring.cons = s.ring.prod then
    let r := { s.ring with cons := 0, prod := 0, waiting := [] }
    let r : Ring := match reg with
      | .baseLo => ({ r with baseLo := value } : Ring)
      | .baseHi => { r with baseHi := value }
      | .size => { r with log2 := value.toNat % 16 }
    .next { s with ring := r }
  else .next (s.ignored 2 off)

/-- AUD_JTAIL: the host has consumed the journal, and records that waited for room are written
(R249). -/
def execAudJtailWrite (value : Word) (s : State) : Host.Outcome State Fault Refusal :=
  .next (if s.pln.recov then s
    else ({ s with job := { s.job with jrn := { s.job.jrn with tail := value.toNat } } } : State).journalOut)

/-- JOURNAL_RECORD_WRITE: records that wait are written while the ring has room (R249). -/
def execJournalRecordWrite (s : State) : Host.Outcome State Fault Refusal := .next s.journalOut

end Sys2Proof.Machine
end

