-- ==== Sys2Proof/Machine/Maquette.lean ====
section
/-! DEFINITION. Table image loads (R314), first touches (R150, R395), and Maquette epochs and restores (R396 to
R399). -/
namespace Sys2Proof.Machine

/-! ### Table images (R314) -/

/-- One of the two host-loaded tables. -/
def State.table (s : State) (adapter : Bool) : Table := if adapter then s.adt else s.pat

/-- Sets one of the two tables; a changed status raises vector 2 (R508). -/
def State.setTable (s : State) (adapter : Bool) (t : Table) : State :=
  let u := if adapter then { s with adt := t } else { s with pat := t }
  if t.st = (s.table adapter).st then u else u.irq 2

/-- An image is rejected. -/
def State.rejectImage (s : State) (adapter : Bool) (reason : Nat) : State :=
  let t := s.ev 0x9014 (if adapter then 1 else 0) reason
  if reason = 1 then t else t.setTable adapter { t.table adapter with st := 3 }

/-- The steps whose COMMIT has completed and whose boundary is past: an image for a boundary that is held may still come
(R314). Log entry 129: DEDUCED. -/
def State.commitsPast (s : State) : Nat := s.job.commits - (if s.job.bound && s.job.boundIdx.isSome then 1 else 0)

/-- TABLE_IMAGE_LOAD: JOB_TBLCTL, and the header of the image it names. Log entry 129: DEDUCED. -/
def execTableImageLoad (value : Word) (head : TableHead) (s : State) : Host.Outcome State Fault Refusal :=
  let ad := value.getLsbD 1
  let t := s.table ad
  if !value.getLsbD 0 || !s.fetches then .next s
  else if t.st = 1 ∨ t.st = 2 then .next (s.rejectImage ad 1)
  else
    let n := if ad then 65536 else nPages
    if head.table.toNat ≠ (if ad then 1 else 0) ∨ head.nent.toNat ≠ n ∨ head.gen.toNat ≠ (t.gen + 1) % 65536 ∨ head.reserved = true then
      .next (s.rejectImage ad 2)
    else if (head.apply - s.job.stepBase).toNat < s.commitsPast then .next (s.rejectImage ad 3)
    else
      .next (({ s with ring := { s.ring with tblTable := if ad then 1 else 0 } }).setTable ad { t with
        st := 1, nxt := [], apply := head.apply, edig := head.edig, due := head.apply :: t.due
        overwritten := t.overwritten || (t.switchedIn.isSome && t.switchedIn == s.job.step) })

/-- Pages of an image that lie in the Cast with VALID, W and PERS, against all of the Cast's. -/
def State.castCovered (s : State) (pat : List (Nat × Nat)) : Bool :=
  let np := s.castPages
  let inC := fun (p : Nat) => (decide (s.cfg 0x0502 ≤ p) && decide (p < s.cfg 0x0502 + np))
    || (decide (s.cfg 0x0503 ≤ p) && decide (p < s.cfg 0x0503 + np))
  (pat.filter (fun e => inC e.1 && bitAt e.2 15 && bitAt e.2 14 && bitAt e.2 13)).length == 2 * np

/-- Reason 5 of R314. -/
def State.imageLacks (s : State) (pat : List (Nat × Nat)) : Bool :=
  let d := s.job.desc
  let m := sparse pat (s.cfg 0x0505)
  !s.castCovered pat || !isRsv (sparse pat (s.cfg 0x0504))
    || !(List.range d.jrnpages).all (fun i => isRsv (sparse pat (d.jrnaddr / pageSize + i)))
    || !(bitAt m 15 && bitAt m 14 && !bitAt m 13 && !bitAt m 9)

/-- TABLE_IMAGE_READY: the entries of a load in progress have arrived, or its resends are exhausted. -/
def execTableImageReady (adapter : Bool) (img : TableImage) (s : State) : Host.Outcome State Fault Refusal :=
  let t := s.table adapter
  if t.st ≠ 1 then .next s
  else
    let n := if adapter then 65536 else nPages
    let es := img.entries.foldl (fun l e =>
      if e.1 < n ∧ e.2 ≠ 0 ∧ (l.lookup e.1).isNone then addAt e.1 (if adapter then e.2.toNat else e.2.toNat % 65536) l else l) []
    let d := if adapter then adtDigest s.key es else patDigest s.key es
    let (u, dead) := s.hostFetch (if d = t.edig.toNat then img.bad else 4) FieldRef.nil (s.ring.tblHi.toNat * 2 ^ 32 + s.ring.tblLo.toNat)
    if dead then .next (u.setTable adapter { t with st := 3 })
    else if !adapter && es.any (fun e => bitAt e.2 12 || bitAt e.2 11) then .next (u.rejectImage adapter 4)
    else if !adapter && u.imageLacks es then .next (u.rejectImage adapter 5)
    else .next (u.setTable adapter { t with st := 2, nxt := es, due := [] })

/-! ### First touch -/

/-- The cells of a page, by offset in it. -/
def State.pageCells (s : State) (p : Nat) : Mem :=
  ((s.hbm.dropTo (p * pageSize)).takeWhile (fun c => decide (c.1 < (p + 1) * pageSize))).map (fun c => (c.1 - p * pageSize, c.2))

/-- Staging pages in use on a die. -/
def Epoch.stagedOn (e : Epoch) (die : Nat) : Nat := (e.staged.filter (fun x => x.1 / 110592 == die)).length

/-- The pages of die 0's staging reserve that keep a restored image's step record until it is verified (R399, R400). Log
entry 126: DESIGN CHOICE. -/
def State.keptPages (s : State) : Nat :=
  if s.mqt.rstSt = 2 ∧ s.mqt.verify = true then ceilDiv s.mqt.rstLen pageSize else 0

/-- The first free staging page of a die (R395). Log entry 126: DESIGN CHOICE. -/
def State.freeStage (s : State) (e : Epoch) (die : Nat) : Option Nat :=
  let low := if die = 0 then s.keptPages else 0
  ((List.range (s.stagePages - low)).map (fun i => s.reserveBase die + low + i)).find? (fun p => !e.staged.any (fun x => x.2 == p))

/-- Copies a page to a free staging page of its die and sets its DRN (R150, R395); with none free the writer waits. -/
def State.touchCopy (s : State) (page : Nat) : State :=
  match s.mqt.epoch with
  | none => s
  | some e =>
    match s.freeStage e (page / 110592) with
    | some p =>
      let t := s.putRange (p * pageSize) ((p + 1) * pageSize) ((s.pageCells page).map (fun c => (p * pageSize + c.1, [c.2])))
      { t with mqt := { t.mqt with epoch := some { e with drn := insertNat page e.drn, staged := e.staged ++ [(page, p)] } } }
    | none => s

/-- Whether a page is protected and not yet copied or drained (R150). -/
def State.guarded (s : State) (page : Nat) : Bool :=
  match s.mqt.epoch with
  | none => false
  | some e => decide (page ∈ s.wp) && !decide (page ∈ e.drn)

/-- One write of the host or of a peer within a page: it lands, or it waits for its page's copy and for the writes
that wait before it (R150). -/
def State.landOrWait (s : State) (w : Wr) : State :=
  let p := pageOf w.addr
  let t := if s.guarded p then s.touchCopy p else s
  if t.guarded p then { t with mqt := { t.mqt with late := t.mqt.late ++ [w] } } else (t.heal w.addr w.bytes.length).store w

/-- The waiting writes whose pages can be copied now land, in order. -/
def State.landLate (s : State) : State :=
  s.mqt.late.foldl State.landOrWait { s with mqt := { s.mqt with late := [] } }

/-- FIRST_TOUCH_COPY: a page that a command, the host or a peer is about to write is copied to staging, if its die
has a free staging page (R150, R395). -/
def execFirstTouchCopy (page : Nat) (s : State) : Host.Outcome State Fault Refusal :=
  .next (if s.job.flights.any (fun f => f.issued && decide (page ∈ s.untouched f)) then s.touchCopy page
    else if s.mqt.late.any (fun w => pageOf w.addr == page) then s.landLate else s)

/-! ### Draining -/

/-- PD61 of a page at a key point. -/
def pageDigest (k : Nat) (m : Mem) : Nat :=
  pdSparse k 0 0 (pageSize / 4) (m.foldl (fun l c => addAt (c.1 / 4) (c.2.toNat * 256 ^ (c.1 % 4)) l) [])

/-- The page the drain copies next: staged copies in order, then captured pages ascending (R396). -/
def Epoch.nextPage (e : Epoch) : Option Nat :=
  match e.staged with
  | x :: _ => some x.1
  | [] => e.pages.find? (fun p => (e.done.lookup p).isNone)

/-- DRAIN_PAGE_COMPLETE: the next page and its directory entry are in the target; it is marked drained, and a
staging page is freed (R396, R397), for which a write may wait. -/
def execDrainPageComplete (page : Nat) (s : State) : Host.Outcome State Fault Refusal :=
  match s.mqt.epoch with
  | none => .next s
  | some e =>
    if e.nextPage = some page then
      let cells := s.pageCells (match e.staged with | x :: _ => x.2 | [] => page)
      let i := e.pages.findIdx (· == page)
      let d := pageDigest e.key cells
      let t := s.toTarget e (imageDir e.pages.length + i * pageSize) pageSize cells true
      let t := t.toTarget e (0x9000 + 16 * i) 16 (cellsOf (leBytes 8 page ++ leBytes 8 d)) true
      .next ({ t with mqt := { t.mqt with epoch := some { e with
        staged := e.staged.drop 1, drn := insertNat page e.drn, done := e.done ++ [(page, BitVec.ofNat 64 d)] } } } : State).landLate
    else .next s

/-! ### The end of an epoch -/

/-- Bytes 0 to 47 of an image header (R397). -/
def ImageHeader.pre (h : ImageHeader) : List Byte :=
  leBytes 2 h.ver.toNat ++ [if h.done then 1 else 0, 0] ++ leBytes 4 h.epoch.toNat ++ leBytes 4 h.stepw.toNat ++ leBytes 4 h.npg.toNat
    ++ leBytes 8 h.cfgdig.toNat ++ leBytes 8 h.key.toNat ++ leBytes 2 h.rank.toNat ++ leBytes 2 h.nrank.toNat
    ++ leBytes 4 h.srlen.toNat ++ leBytes 8 h.imgdig.toNat

/-- HDRDIG over a header and the Cast state record beside it. -/
def headerDigest (h : ImageHeader) (castRec : List Byte) : Nat := pd61 h.key.toNat (ImageHeader.pre h ++ castRec)

/-- The header of a finished epoch. -/
def State.epochHeader (s : State) (e : Epoch) (digs : List DWord) : ImageHeader :=
  let h : ImageHeader :=
    { ver := 1, done := true, epoch := e.epoch, stepw := e.stepw, npg := BitVec.ofNat 32 e.pages.length, cfgdig := s.pln.cfgDig
      key := BitVec.ofNat 64 e.key, rank := BitVec.ofNat 16 e.rank, nrank := BitVec.ofNat 16 e.nrank
      srlen := BitVec.ofNat 32 e.recLen
      imgdig := BitVec.ofNat 64 (digs.foldl (fun a d => pdMerge e.key a d.toNat (pageSize / 8)) 0), hdrdig := 0 }
  { h with hdrdig := BitVec.ofNat 64 (headerDigest h e.castRec) }

/-- Whether every page is in the target and the step's records have been appended (R398). -/
def Epoch.ready (e : Epoch) : Bool :=
  e.pages.all (fun p => (e.done.lookup p).isSome) && e.staged.isEmpty && e.recDone && !e.cut && decide (e.recLen ≤ 0x1000000)

/-- EPOCH_COMPLETE: the header is written, and protection ends (R397, R398). -/
def execEpochComplete (s : State) : Host.Outcome State Fault Refusal :=
  match s.mqt.epoch with
  | none => .next s
  | some e =>
    if e.ready then
      let digs := e.pages.map (fun p => (e.done.lookup p).getD 0)
      let h := s.epochHeader e digs
      let t := s.toTarget e 0 64 (cellsOf (ImageHeader.pre h ++ leBytes 8 h.hdrdig.toNat)) true
      let t := { t with
        wp := []
        mqt := { t.mqt with epoch := none, lastEpoch := e.epoch, lastTgt := e.tgt, lastDone := true, lastFail := false } }
      .next ((t.landAll.ev 0xA041 e.epoch.toNat e.pages.length).irq 4)
    else .next s

/-- EPOCH_FAIL: a failed target write or PCIe error, or a record too long or cut, or a job that ended
before its record was written (R398). -/
def execEpochFail (reason : Nat) (s : State) : Host.Outcome State Fault Refusal :=
  match s.mqt.epoch with
  | none => .next s
  | some e =>
    let ok : Bool := match reason with
      | 1 | 2 => true
      | 3 => decide (0x1000000 < e.recLen)
      | 4 => e.cut
      | 5 => !e.recDone && (e.by_ == .gone || (e.by_ == .job && (s.jobSt == .faulted || s.jobSt == .empty)))
      | _ => false
    .next (if ok then s.epochFail reason else s)

/-! ### Restore (R399) -/

/-- Sets the status of a restore. -/
def State.setRestore (s : State) (st : Nat) : State := ({ s with mqt := { s.mqt with rstSt := st } }).irq 4

/-- A restore is rejected or fails. Log entry 50: DESIGN CHOICE. -/
def State.badRestore (s : State) (st reason page : Nat) : State :=
  (({ s with mqt := { s.mqt with rstReason := reason } } : State).setRestore st).ev 0xA045 reason page

/-- MAQUETTE_RESTORE: MQT_RSTCTL, and with GO the target entry in host memory and the header of the image there with its
Cast state record (R390, R399). Of a target of a reserved KIND no header can be read. Log entry 127: DESIGN CHOICE. -/
def execMaquetteRestore (value : Word) (host : HostMem) (img : ImageTop) (s : State) : Host.Outcome State Fault Refusal :=
  if s.pln.recov then .next s
  else
  let s := { s with mqt := { s.mqt with verify := value.getLsbD 30, rstTgt := value.toNat % 4 } }
  if !value.getLsbD 31 then .next s
  else if s.jobSt ≠ .empty ∨ s.dev ≠ .up ∨ s.rcv.parked.isSome = true ∨ s.mqt.epoch.isSome = true ∨ s.mqt.rstSt = 1 then
    .next (s.badRestore s.mqt.rstSt 1 0)
  else
    let e := s.readTarget host s.mqt.rstTgt
    let t := ({ s with mqt := { s.mqt with rstAcc := false, rstMis := false } } : State).openPath s.mqt.rstTgt e
    if 1 < e.kind.toNat ∨ img.hdr.ver ≠ 1 ∨ img.hdr.done = false ∨ headerDigest img.hdr img.castRec ≠ img.hdr.hdrdig.toNat then .next (t.badRestore 3 2 0)
    else if img.hdr.cfgdig ≠ s.pln.cfgDig then .next (t.badRestore 3 3 0)
    else if img.hdr.npg.toNat ≠ s.castPages then .next (t.badRestore 3 5 0)
    else .next (({ t with mqt := { t.mqt with rstHdr := some img.hdr, rstEntry := some e, rstCast := img.castRec } }).setRestore 1)

/-- Whether a page belongs to a copy of the Cast. -/
def State.inCast (s : State) (p : Nat) : Bool :=
  let np := s.castPages
  (decide (s.cfg 0x0502 ≤ p) && decide (p < s.cfg 0x0502 + np)) || (decide (s.cfg 0x0503 ≤ p) && decide (p < s.cfg 0x0503 + np))

/-- The cells of a delivered page. -/
def ImagePage.cells (p : ImagePage) : Mem :=
  p.data.foldl (fun m c => if c.1 < pageSize then m.set c.1 c.2 else m) []

/-- Where page `i` of an image of `np` pages lies in its target, and the code of a bad delivery from there (R161, R390,
R397). -/
def imagePage (e : Option DrainTarget) (np i : Nat) : Nat × Nat :=
  match e with
  | some t => (t.base.toNat + imageDir np + i * pageSize, if t.kind = 1 then 0x4011 else 0x4012)
  | none => (0, 0x4012)

/-- Pages of an image of `np` from number `i` on are checked and written in order; with a failure, its reason and page. -/
def State.restorePages (k np : Nat) : Nat → List ImagePage → State → State × Option (Nat × Nat)
  | _, [], s => (s, none)
  | i, p :: r, s =>
    if s.isReserve p.page || !s.inCast p.page then (s, some (5, p.page))
    else
      let cells := ImagePage.cells p
      let (base, code) := imagePage s.mqt.rstEntry np i
      let (t, dead) := s.fetchBad code (if pageDigest k cells = p.dig.toNat then p.bad else 4) FieldRef.nil base (p.page * pageSize)
      if dead then (t, some (4, p.page))
      else
        let a := p.page * pageSize
        State.restorePages k np (i + 1) r (t.putRange a (a + pageSize) (cells.map (fun c => (a + c.1, [c.2]))))

/-- What a failed restore leaves: both copies of the Cast are undefined (R399). Log entry 50: DESIGN CHOICE. -/
def State.blurCast (s : State) : State :=
  let lo := fun (b : Nat) => s.cfg b * pageSize
  let hi := fun (b : Nat) => (s.cfg b + s.castPages) * pageSize
  let cut := (s.hbm.clear (lo 0x0502) (hi 0x0502)).clear (lo 0x0503) (hi 0x0503)
  let m := (Config.freeCells s.free).foldl (fun (m : Mem) c =>
    if (lo 0x0502 ≤ c.1 ∧ c.1 < hi 0x0502) ∨ (lo 0x0503 ≤ c.1 ∧ c.1 < hi 0x0503) then m.set c.1 c.2 else m) cut
  { s with hbm := m, free := s.free + 1 }

/-- MAQUETTE_RESTORE_COMPLETE: every page is fetched, checked and written, then the Cast state record; the step
record is kept in die 0's staging reserve (R399). -/
def execMaquetteRestoreComplete (pages : List ImagePage) (stepRec : List Byte) (s : State) : Host.Outcome State Fault Refusal :=
  match s.mqt.rstHdr with
  | none => .next s
  | some h =>
    if s.mqt.rstSt ≠ 1 ∨ pages.length ≠ h.npg.toNat then .next s
    else
      match State.restorePages h.key.toNat h.npg.toNat 0 pages s with
      | (t, some (reason, page)) => .next (t.blurCast.badRestore 3 reason page)
      | (t, none) =>
        let u := t.store ⟨.hbm, t.cfg 0x0504 * pageSize, t.mqt.rstCast⟩
        let r := stepRec.take h.srlen.toNat
        let v := u.store ⟨.hbm, u.reserveBase 0 * pageSize, r⟩
        .next (({ v with mqt := { v.mqt with rstLen := r.length } }).setRestore 2)

end Sys2Proof.Machine
end

