-- ==== Sys2Proof/Machine/Recovery.lean ====
section
/-! DEFINITION. The compute-only reset with its rejoin (R402 to R405), hangs (R406 to R409), the wait timeout
(R410), and pre-emption: RESUME, SAVE, RESTORE, DISCARD (R412 to R421). -/
namespace Sys2Proof.Machine

/-! ### The reset sequence (R403) -/

/-- Every core's memories and sticky words, the queues and the limiters at their reset (R505), Drone zero; the
lookup tables in force come back from the die records (phase 7). -/
def State.clearCompute (s : State) : State :=
  { s with
    cores := s.cores.map (fun (k : Core) => { Core.reset with lutCur := k.lutCur, lutGen := k.lutGen })
    drn := { s.drn with beat := 0, cyc := 0, held := false, cause := 0, die := 0, core := 0xFF, votes := [] }
    latch := s.latch.filter (fun l => l.1 != 0x50000C)
    pwr := { s.pwr with credit := 0, eslope := 4, sumD := 0, ivCyc := 0 } }

/-- The job's position before it dispatches index `next` again at Drone `beat`. -/
def State.rewind (s : State) (next beat : Nat) (seg : SegSt) : State :=
  { s with
    drn := { s.drn with beat := beat }
    job := { s.job with
      next := next, seg := seg, disp := [], flights := [], lastPlanned := beat, ending := false, stop := none, kill := none
      bound := false, boundIdx := none, since := [] }
    rcv := { s.rcv with lastBnd := s.rcv.lastBnd.filter (fun b => decide (b ≤ beat)), hang := 0, hung := false } }

/-- A table put back as it stood at the step's STEP (R405): one switched since waits for its switch
again. -/
def Table.rollback (t : Table) (gen : Nat) (cur : List (Nat × Nat)) (w : Word) : Table :=
  if t.gen = gen then t else { t with gen := gen, cur := cur, st := 2, nxt := t.cur, apply := w, switchedIn := none, overwritten := false, due := [] }

/-- What has come for some step words is forgotten, so that their repetition counts anew (R404). -/
def Net.forget (n : Net) (ws : List Word) : Net :=
  { n with
    sigSeen := n.sigSeen.filter (fun k => !decide (k.2.1 ∈ ws))
    chunks := n.chunks.filter (fun c => !decide (c.stepw ∈ ws))
    flagRx := n.flagRx.filter (fun x => !decide (x.stepw ∈ ws)) }

/-- What R405 restores and R404 sets from the resume record. -/
def State.rollback (s : State) (r : Resume) : State :=
  let w := r.stepw
  let j := s.job
  let prev := match r.step with | some (n + 1) => some n | _ => none
  let old := j.steps.filter (fun i => decide (i < r.stepIdx))
  let t := { s with
    cores := s.cores.mapIdx (fun i (k : Core) => match r.luts[i]? with
      | some (cur, nxt, gen, rdy) => { k with lutCur := cur, lutNext := nxt, lutGen := gen, lutRdy := rdy }
      | none => k)
    pat := s.pat.rollback r.patGen r.pat w
    adt := s.adt.rollback r.adtGen r.adt w
    cast := r.cast
    net := s.net.forget [w, s.wordAfter w]
    job := { j with
      sigs := s.rcv.adds.foldl (fun (l : List Word) (a : Nat × Word) => upd l a.1 (· + a.2)) r.sigs
      step := prev, steps := old, stepIdx := old.headD 0, part := if prev.isNone then .prologue else .commitB
      phase := if prev.isNone then 0 else 4, frame := r.frame - r.off, dec := { j.dec with skip := r.dec.skip, colFlag := r.dec.colFlag }
      commits := (prev.map (· + 1)).getD 0, jrn := { j.jrn.discard with closed := true } } }
  let u := t.rewind r.stepIdx r.frame r.pos
  if t.pat.st = s.pat.st ∧ t.adt.st = s.adt.st then u else u.irq 2

/-- A reset in the prologue: the job begins again at command 0 (R404). -/
def State.fromStart (s : State) : State :=
  let t := { s with
   net := s.net.forget [0xFFFFFFFF, s.job.stepBase]
   job := { s.job with
    sigs := s.rcv.adds.foldl (fun (l : List Word) (a : Nat × Word) => upd l a.1 (· + a.2)) (List.replicate 64 0)
    part := .prologue, phase := 0, frame := 0, dec := { s.job.dec with skip := false, colFlag := false }
    jrn := { s.job.jrn with
      entries := s.job.jrn.discard.remapped, remapped := [], closed := false, stepDrone := 0, stepHeld := s.drn.cyc, flags := 0, checkers := 0 } } }
  (t.rewind 0 0 (.desc t.job.desc.segsp t.job.desc.segaddr 0)).prologuePoint

/-- The reason of R405 for which a local rejoin is impossible. -/
def State.noRejoin (s : State) (r : Resume) (cdig : DWord) : Option Nat :=
  let lost := fun (t : Table) => t.overwritten && t.switchedIn.isSome && t.switchedIn == r.step
  let moved : Bool := match r.pos with | .pass d _ _ _ => d.cdig != cdig | _ => false
  if s.rcv.shdAfter then some 1
  else if lost s.pat || lost s.adt then some 2
  else if r.stepw ∈ s.net.rdmaSpd then some 4
  else if moved then some 5
  else none

/-- Every rank of the job but this one. -/
def State.otherRanks (s : State) : List Nat := (List.range s.job.desc.nrank).filter (· != s.job.desc.rank)

/-- RESYNC to every member of every group that contains this rank (R345): GROUP 0xFFFF names all ranks (R323). -/
def State.resyncAll (s : State) (w : Word) : State :=
  s.otherRanks.foldl (fun t r => t.send r (t.packet 6 r w 0)) s

/-- The rejoin of R404, or FAULTED where R405 rules it out; `run` sets the job running. -/
def State.rejoin (s : State) (cdig : DWord) : State :=
  let run := fun (t : State) => if t.jobSt = .held then t.leaveHold else t.setJob .running
  match s.rcv.resume with
  | none =>
    if 0xFFFFFFFF ∈ s.net.rdmaSpd then
      let t := (s.ev 0xA053 0xFFFFFFFF 4).noteFault 0 0xA053
      ({ t with rcv := { t.rcv with marked := false } }).faultNow
    else
      let t := s.fromStart
      let t := { t with rcv := { t.rcv with replayTo := some t.job.hi, marked := false } }
      run ((t.resyncAll 0xFFFFFFFF).ev 0xA051 0xFFFFFFFF 0)
  | some r =>
    match s.noRejoin r cdig with
    | some why =>
      let t := (s.ev 0xA053 r.stepw.toNat why).noteFault r.stepIdx 0xA053
      ({ t with rcv := { t.rcv with marked := false } }).faultNow
    | none =>
      let t := s.rollback r
      let t := { t with rcv := { t.rcv with replayTo := some t.job.hi, marked := false } }
      run ((t.resyncAll r.stepw).ev 0xA051 r.stepw.toNat r.frame)

/-- A reset enters a phase of R403. -/
def State.inPhase (s : State) (n : Nat) : State := { s with rcv := { s.rcv with phase := n } }

/-- Phases 2 to 7: the trims and clock steps due, alignment, memories, known-answer tests with the actions they lead to. What
waits to cross to the compute part is lost with it (R462). -/
def State.resetCompute (s : State) (inp : ResetInput) : State :=
  let t := (({ s.clearCompute with clk := { s.clk with stopped := true, aligned := false, wake := [] } } : State).inPhase 3).earlyActions
  if t.dev = .failed then t
  else
    let t := (t.inPhase 4).align inp.alignFails
    if t.dev = .failed then t else ((t.inPhase 6).knownAnswer inp).inPhase 8

/-- An ABORT that waited for the end of a reset takes effect, and is judged then (R223, R224). -/
def State.settleAbort (s : State) : State :=
  if !s.rcv.abortPend then s
  else
    let t := { s with rcv := { s.rcv with abortPend := false } }
    match t.jobSt with
    | .empty | .faulted | .done => t.reject 1
    | _ => t.abortJob

/-- The reset ends: the device leaves RECOVERING, and a waiting ABORT takes effect (R224). No rule lets a
reset end FAILED (DEDUCED). Log entry 70: DEDUCED. -/
def State.endReset (s : State) : State :=
  let t := { s with rcv := { s.rcv with phase := 0, failed := false, suspects := [] } }
  (t.setDev (if s.rcv.failed then .failed else .up)).settleAbort

/-! ### The diagnosis of R408 -/

/-- One command of a diagnosis run, its writes to memory known at once: `v` says what becomes of each. Nothing goes to the
host or to a peer, data from there is free, a COLL acts as under R259, and a write to a PERS page is discarded. Log entry 49:
DESIGN CHOICE. -/
def State.diagCmd (v : State → Wr → State) (s : State) (d : Disp) : State :=
  match d.cmd with
  | .commit _ => if s.job.dec.skip then s else { s with cast := s.cast.switch }
  | _ =>
    let x := s.planned d d.cmd (s.plannedOf d)
    let (ws, t) := s.couldWrite (s.launch x x.planned x.pcompl ⟨[], [], 0, 0, 0⟩)
    (ws.filter (fun w => match w.loc with
      | .host | .peer _ _ => false
      | .hbm => !s.attr (pageOf w.addr) 13
      | _ => true)).foldl v t

/-- The diagnosis run of suspect `x`: the step's commands up to it except the other suspects, from the resume point. What
it leaves is in the memories. Where it hangs again, `x` does not complete and its bytes are those of an abandoned command.
Log entry 49: DESIGN CHOICE. -/
def State.diagRun (s : State) (hangs : Bool) (x : Nat) : State :=
  let t := match s.rcv.resume with | some r => s.rollback r | none => s.fromStart
  let t := { t with job := { t.job with
    rplCtl := t.job.rplCtl ||| 4, skips := [], dec := { t.job.dec with skip := decide (s.job.phase ≠ 4) || s.job.dec.skip } } }
  let cs := s.job.since.filter (fun d => decide (d.idx ≤ x) && (d.idx == x || !decide (d.idx ∈ s.rcv.suspects)))
  let u := cs.foldl (fun u d => State.diagCmd (if hangs && d.idx == x then State.mixStore else State.store) u d) t
  { s with hbm := u.hbm, cores := u.cores, free := u.free }

/-- The diagnosis after a hang (R408, R409): the lowest sixteen suspects run one at a time until one hangs again, the
`again`-th of them. Log entry 49: DESIGN CHOICE. Log entry 72: DEDUCED. -/
def State.diagnose (s : State) (again : Option Nat) : State × Option Nat :=
  let xs := s.rcv.suspects.take 16
  match again.bind (fun i => xs[i]?) with
  | some x =>
    let before := xs.takeWhile (fun y => y != x)
    ((before.foldl (fun (t : State) y => t.diagRun false y) s).diagRun true x, some x)
  | none => (xs.foldl (fun (t : State) y => t.diagRun false y) s, none)

/-- COMPUTE_RESET: the phases of R403. After a hang a suspect that hangs again is charged, and the sequence
begins again: the next COMPUTE_RESET ends it (R409). Without power in the compute part no phase can run, and the device
stays FAILED. Log entry 49: DESIGN CHOICE. Log entry 71: DEDUCED. Log entry 72: DEDUCED. Log entry 76: DESIGN CHOICE. -/
def execComputeReset (inp : ResetInput) (s : State) : Host.Outcome State Fault Refusal :=
  if s.dev ≠ .recovering then .next s
  else if s.pwr.off = true then .next s.endReset
  else
    let t := s.resetCompute inp
    if t.dev = .failed then .next ({ t with rcv := { t.rcv with phase := 0, failed := false } } : State).settleAbort
    else if !t.live then .next t.endReset
    else
      let w := match t.rcv.resume with | some r => r.stepw.toNat | none => 0xFFFFFFFF
      let due := decide (t.rcv.cause = 2) && !t.rcv.suspects.isEmpty
      let (t, guilty) := if due then t.diagnose inp.hungAgain else (t, none)
      match guilty with
      | some x =>
        let u := t.ev 0xB002 w x
        let u := match t.rcv.suspCore with | some c => u.charge c 2 | none => u.chargeModule 2
        .next { u with rcv := { u.rcv with suspects := [], phase := 1 } }
      | none =>
        let u := if due then t.ev 0xB003 w (min 16 t.rcv.suspects.length) else t
        if t.rcv.failed then .next u.endReset
        else
          let v := ({ u with rcv := { u.rcv with phase := 9 } }).rejoin inp.cdig
          .next v.endReset

/-- CKM_RSTCTL (R402): RST triggers a reset. Log entry 71: DEDUCED. -/
def execCkmRstctlWrite (value : Word) (s : State) : Host.Outcome State Fault Refusal :=
  .next (if value.getLsbD 31 && !s.pln.recov then s.trigger 0 else s)

/-! ### Hangs (R406, R407) -/

/-- The code of a unit in 0xB001, in the order in which R407 lists them; none for a Chanter. Log entry 73: DESIGN
CHOICE. -/
def Queue.unit : Queue → Option Nat
  | .mxq => some 0 | .vxq => some 1 | .rdq => some 2 | .mvq => some 3 | .ctl => none

/-- HANG_DETECTED: no command has completed for RCV_HANGCYC cycles. Log entry 73: DESIGN CHOICE. -/
def execHangDetected (s : State) : Host.Outcome State Fault Refusal :=
  if !(s.live && s.dev == .up && decide (s.cfg 0x0303 ≤ s.rcv.hang) && !s.rcv.hung) then .next s
  else
    let fs := s.job.flights.filter (fun f => f.issued)
    let first := fs.foldl (fun (m : Option Flight) f => match m with
      | some g => if g.idx ≤ f.idx then some g else some f
      | none => some f) none
    let unit := first.bind (fun f => f.queue.unit)
    let same : List Flight := match first with | some f => fs.filter (fun (g : Flight) => g.queue == f.queue && g.core == f.core) | none => []
    let core := first.bind (fun f => f.core)
    let lcore := (first.map (fun f => f.cmd.hdr.lcore.toNat)).getD 0xFF
    let (kind, t) := match unit with
      | some k => (k, s)
      | none => let (n, u) := s.nat; (n % 4, u)
    let die := match core with | some c => c / s.perDie | none => 0
    let t := t.event 0xB001 (if core.isSome then lcore else 0xFF) die FieldRef.nil noIdx
      (BitVec.ofNat 64 (kind * 64 + die)) (BitVec.ofNat 64 same.length)
    let t := { t with rcv := { t.rcv with hung := true, suspects := (same.map (fun (f : Flight) => f.idx)).foldl (fun l i => insertNat i l) [], suspCore := core } }
    .next (if bitAt (s.cfg 0x0305) 0 then t.trigger 2 else t)

/-! ### Timeouts (R410) -/

/-- The ranks whose data a command in flight awaits. -/
def State.awaits (s : State) (f : Flight) : List Nat :=
  if !f.issued then []
  else
    match f.cmd with
    | .decide c => (s.flagPeers c).filter (fun r => !(s.stepFlags f.idx).any (fun x => x.rank == r))
    | .coll c =>
      let x := s.collCtx c
      let lacks := fun (p r seg part len : Nat) => p != x.q && (s.piece f.idx r seg part len).isNone
      let own := (x.segBytes x.q).2
      ((x.ms.mapIdx (fun p r => (p, r))).filter (fun (pr : Nat × Nat) => match c.cop.toNat with
        | 0 | 1 => lacks pr.1 pr.2 x.q 0 own || lacks pr.1 pr.2 pr.1 1 (x.segBytes pr.1).2
        | 2 => lacks pr.1 pr.2 x.q 0 own
        | 3 => lacks pr.1 pr.2 pr.1 0 (rowBytes x.f x.cnt)
        | _ => pr.1 == 0 && lacks pr.1 pr.2 0 0 (rowBytes x.f x.cnt))).map (fun p => p.2)
    | .move _ | .dig _ => if f.acks ≠ 0 ∨ (s.fromSpace f = 4 ∧ !s.arrived f) then [(peerOf f.cmd).1] else []
    | _ => []

/-- Whether a rank's peer state is UP. -/
def Net.peerUp (n : Net) (r : Nat) : Bool := n.peers.any (fun p => p.rank == r && p.st == .up)

/-- WAIT_TIMEOUT: a hold for a peer that is not UP, or for the host, has lasted RCV_WAITTMO. Log entry 33: DEDUCED. -/
def execWaitTimeout (s : State) : Host.Outcome State Fault Refusal :=
  let c := s.drn.cause
  let long := decide (s.cfg 0x0304 * 1000 * s.clk.mhz ≤ s.drn.len)
  let late := ((s.job.flights.flatMap s.awaits).filter (fun r => !s.net.peerUp r)).foldl
    (fun (m : Option Nat) r => some (match m with | some k => min k r | none => r)) none
  let who := if c = 6 then late else if c = 0 ∨ c = 5 then some 0xFFFF else none
  if s.jobSt ≠ .held ∨ s.dev ≠ .up ∨ long = false then .next s
  else
    match who with
    | none => .next s
    | some r =>
      let t := s.ev 0xB010 r c
      if bitAt (s.cfg 0x0305) 2 then
        let i := ((s.job.flights.find? (fun f => !(s.awaits f).isEmpty)).map (fun f => f.idx)).getD s.nextIssue
        .next ((t.noteFault i 0xB010).faultNow)
      else .next t

/-- RESET_TIMEOUT: a reset has not reached phase 9 within RCV_WAITTMO; which phase it has reached is timing (R403). Log entry
144: DESIGN CHOICE. -/
def execResetTimeout (s : State) : Host.Outcome State Fault Refusal :=
  if s.dev = .recovering then
    let (n, t) := s.nat
    let p := max s.rcv.phase (n % 8 + 1)
    .next (({ t with rcv := { t.rcv with phase := p } } : State).ev 0xA054 p s.rcv.count)
  else .next s

/-! ### RESUME -/

/-- What a RESUME does: a job that a reset marked rejoins (R403), another runs on. Log entry 75: DEDUCED. -/
def State.resumed (s : State) (cdig : DWord) : State := if s.rcv.marked then s.rejoin cdig else s.setJob .running

/-- RESUME (R222); a job whose pre-emption was granted is about to be parked. While the clocks stand it waits for them
(R471). Log entry 75: DEDUCED. -/
def execResume (cdig : DWord) (s : State) : Host.Outcome State Fault Refusal :=
  if s.pln.recov then .next s
  else if s.jobSt ≠ .paused ∨ s.dev ≠ .up ∨ s.job.saving = true then .next (s.reject 3)
  else .next (if s.clk.stopped then s.whenAwake (.resume cdig) else s.resumed cdig)

/-! ### SAVE (R414, R417, R421) -/

/-- Cycles that belong to no hold of R198. -/
def State.quietCycles (s : State) (n : Nat) : State :=
  { s with drn := { s.drn with cyc := s.drn.cyc + n }, ptp := s.ptp.pass s.clk.mhz n }

/-- The cycles of a save or restore sequence (R414, R415). -/
def saveCycles : Nat := 102400

/-- One core's part of its die's SAVE area (R388). -/
def State.saveCore (s : State) (l : Nat) : State :=
  let k := s.core l
  let d := l / s.perDie
  let j := l % s.perDie
  let a := (s.saveBase d + 4 + 4 * j) * pageSize
  (s.putRange a (a + 0x620000) (k.spd.map (fun c => (a + c.1, [c.2])))).copyLuts l

/-- The part of the stream in progress at a command boundary (R225, R412). -/
def State.partNow (s : State) : Part :=
  match s.job.phase with
  | 0 => .prologue | 1 => .compute | 2 => .exchange | 3 => .commitA
  | _ => if s.job.commits ≤ s.job.step.getD 0 then .commitA else .commitB

/-- The boundary at which the job stands: its command, the stream's position there, and a beat no later
than its plan. -/
def State.here (s : State) : Nat × SegSt × Nat :=
  let j := s.job
  let fs := j.flights.filter (fun f => f.idx == s.nextIssue)
  match fs, j.disp with
  | f :: _, _ => (f.idx, f.pos, f.planned)
  | [], d :: _ => (d.idx, d.pos, j.lastPlanned)
  | [], [] => (j.next, j.seg, j.lastPlanned)

/-- The resume record rewritten for the command `x` at which the job stands, its stream at `pos`, with G as the frame
position (R414). Log entry 74: DEDUCED. -/
def State.resumeHere (s : State) (x : Nat) (pos : SegSt) : Resume :=
  ⟨s.curStepWord, x, s.job.step, s.drn.beat, pos, s.job.sigs, s.pat.gen, s.adt.gen, s.pat.cur, s.adt.cur, s.cast, s.job.dec,
   s.cores.map (fun k => (k.lutCur, k.lutNext, k.lutGen, k.lutRdy)), 0⟩

/-- The job is parked: its state is set aside and the machine is EMPTY; the registers that LOADING sets keep their values
until then (R512, R513). Log entry 48: DESIGN CHOICE. Log entry 74: DEDUCED. -/
def State.park (s : State) : State :=
  let (x, pos, lp) := s.here
  let j := { s.job with
    next := x, seg := pos, disp := [], flights := [], part := s.partNow, lastPlanned := lp, ending := false, preempt := false, saving := false }
  let p : Parked :=
    { job := j, cores := s.cores, pat := s.pat, adt := s.adt, cast := s.cast, aud := s.aud, ring := s.ring, net := s.net
      at_ := s.drn.beat, count := s.rcv.count, overrun := s.rcv.overrun, preMax := s.rcv.preMax, resume := s.rcv.resume
      replay := s.rcv.marked, rec_ := s.resumeHere x pos, cause := s.rcv.cause, slice := s.rcv.slice, replayTo := s.rcv.replayTo
      kept := s.rcv.kept, last := s.rcv.last, hang := s.rcv.hang, shdAfter := s.rcv.shdAfter, adds := s.rcv.adds
      lastBnd := s.rcv.lastBnd, pwr := s.pwr, duo := s.duo, served := false }
  let t := { s with
    job := { j with seg := .ended, pausePend := false }
    rcv := { s.rcv with resume := none, replayTo := none, kept := [], adds := [], marked := false, parked := some p }
    mqt := s.mqt.ofJob .parked }
  (t.setJob .empty).idleActions

/-- SAVE, inserted at a pre-emption's grant (R414). Log entry 76: DESIGN CHOICE. -/
def execSave (s : State) : Host.Outcome State Fault Refusal :=
  if s.jobSt = .paused ∧ s.dev = .up ∧ s.job.saving = true ∧ s.rcv.parked.isNone = true then
    let t := (List.range 4).foldl State.latchCtl ((List.range s.nCores).foldl State.saveCore s)
    .next ((t.quietCycles saveCycles).park)
  else .next s

/-! ### RESTORE (R415, R419) -/

/-- The registers of the job's own part of the ring block. -/
def Ring.ofJob (r p : Ring) : Ring :=
  { r with sigVal := p.sigVal, crCons := p.crCons, ilkCtl := p.ilkCtl, fltIdx := p.fltIdx, fltCode := p.fltCode, flagEvt := p.flagEvt
           tblLo := p.tblLo, tblHi := p.tblHi, tblTable := p.tblTable }

/-- The guidance of a parked job under the controller as it stands: the limiters start from zero (R432), and what its job
brought, R438's event, its PHASE, classes and point (R440 to R442), is put back. -/
def Pwr.ofJob (p q : Pwr) : Pwr :=
  { p with credit := 0, eslope := 4, sumD := 0, ivCyc := 0, overload := q.overload, phase := q.phase, nc := q.nc, cls := q.cls
           opent := q.opent, iguide := q.iguide, vrcls := q.vrcls }

/-- The parked job's state is put back at its beat G from its SAVE (R415). Log entry 74: DEDUCED. -/
def State.unpark (s : State) (p : Parked) : State :=
  { s with
    job := { p.job with next := p.rec_.stepIdx, seg := p.rec_.pos, sigs := p.job.sigs }
    cores := p.cores, pat := p.pat, adt := p.adt, cast := p.cast
    aud := { p.aud with guilt := s.aud.guilt, coreSel := s.aud.coreSel }
    ring := s.ring.ofJob p.ring
    net := s.net.withJob p.net
    duo := p.duo
    drn := { s.drn with beat := p.at_ }
    pwr := s.pwr.ofJob p.pwr
    rcv := { Rcv.reset with
      cause := p.cause, slice := p.slice, count := p.count, overrun := p.overrun, preMax := p.preMax, lastBnd := p.lastBnd
      resume := p.resume, marked := p.replay, replayTo := p.replayTo, kept := p.kept, last := p.last, hang := p.hang
      shdAfter := p.shdAfter, adds := p.adds }
    mqt := { s.mqt with epoch := s.mqt.epoch.map (fun (e : Epoch) => if e.by_ = .parked then { e with by_ := .job } else e) } }

/-- The inserted RESTORE of a parked job: it runs again at G, or rejoins in place of that where a reset marked it (R419). A
changed segment stops it. Log entry 74: DEDUCED. -/
def State.restored (s : State) (p : Parked) (cdig : DWord) : State :=
  let t := (s.quietCycles saveCycles).unpark p
  if p.replay then ({ t with jobSt := .paused } : State).rejoin cdig
  else
    let moved : Option Nat := match p.rec_.pos with
      | .pass d _ _ _ => if d.cdig = cdig then none else some d.at_
      | _ => none
    match moved with
    | some a => (((t.setJob .paused).evCmd 0x9016 0xFF FieldRef.nil p.rec_.stepIdx a 0).noteFault p.rec_.stepIdx 0x9016).faultNow
    | none => t.setJob .running

/-- RESTORE, before any descriptor is read (R419); while the clocks stand it waits for them. Log entry 74: DEDUCED. -/
def execRestore (cdig : DWord) (s : State) : Host.Outcome State Fault Refusal :=
  match s.rcv.parked with
  | none => .next s
  | some p =>
    if s.jobSt ≠ .empty ∨ s.dev ≠ .up ∨ p.served = false then .next s
    else .next (if s.clk.stopped then s.whenAwake (.restore cdig) else s.restored p cdig)

/-- What waited for the clocks takes effect in its order, in the first cycle after they run again (R462, R471). -/
def State.awake (s : State) : State :=
  s.clk.wake.foldl (fun t w => match w with
    | .launch => if t.jobSt = .armed ∧ t.dev = .up ∧ t.duoReady = true then t.launched else t
    | .resume d => if t.jobSt = .paused ∧ t.dev = .up ∧ t.job.saving = false then t.resumed d else t
    | .restore d => match t.rcv.parked with
      | some p => if t.jobSt = .empty ∧ t.dev = .up ∧ p.served = true then t.restored p d else t
      | none => t) { s with clk := { s.clk with wake := [] } }

/-! ### DISCARD (R420) and keepalives (R342) -/

/-- The ranks to which a keepalive goes: those with unacknowledged traffic or an unmet due point, and this
rank's two neighbours (R342); its own, for a Duo's partner (R346). Log entry 59: DESIGN CHOICE. -/
def State.keepaliveRanks (s : State) : List Nat :=
  let n := s.job.desc.nrank
  let r := s.job.desc.rank
  let own := if s.duoOn then [r] else []
  if n ≤ 1 then own
  else
    let near := [(r + n - 1) % n, (r + 1) % n]
    let open_ := (s.net.flows.filter (fun f => !f.unacked.isEmpty)).map (fun f => f.rank)
    own ++ ((near ++ open_ ++ s.job.flights.flatMap s.awaits).foldl (fun l k => insertNat k l) []).filter (· != r)

/-- The state word of R342: device state, job state, the job's compute-only resets, its Drone. -/
def stateWord (dev : Nat) (js : JobSt) (resets beat : Nat) : Nat :=
  dev * 2 ^ 61 + js.code * 2 ^ 57 + min 255 resets * 2 ^ 49 + beat % 2 ^ 32

/-- One keepalive to each of those ranks; it is not acknowledged. -/
def State.keepalives (s : State) (dev : Nat) (js : JobSt) (resets beat : Nat) : State :=
  s.keepaliveRanks.foldl (fun t r =>
    t.emit r { t.packet 5 r t.curStepWord 0 with cdig := BitVec.ofNat 64 (stateWord dev js resets beat) }) s

/-- Runs an operation of the collective protocol for the parked job (R417). Log entry 77: DEDUCED. -/
def State.forParked (s : State) (p : Parked) (f : State → State) : State :=
  let t := f { s with job := p.job, jobSt := .paused, net := s.net.withJob p.net, duo := p.duo }
  { t with
    job := s.job, jobSt := s.jobSt, net := t.net.withJob s.net, duo := s.duo
    rcv := { t.rcv with parked := some { p with job := t.job, net := t.net, duo := t.duo } } }

/-- The parked job is gone (R420). Log entry 77: DEDUCED. -/
def State.discardParked (s : State) (p : Parked) : State :=
  let own := match s.mqt.epoch with | some (e : Epoch) => if e.by_ = EpochOf.parked then some e.epoch.toNat else none | none => none
  let t := s.forParked p (fun u => u.keepalives s.devst .faulted p.count p.at_)
  let t := if own.isSome then t.epochFail 5 else t
  let t := { t with rcv := { t.rcv with parked := none } }
  t.ev 0x9018 p.job.desc.jobid.toNat (own.getD 0xFFFFFFFF)

/-- DISCARD. -/
def execDiscard (s : State) : Host.Outcome State Fault Refusal :=
  if s.pln.recov then .next s
  else match s.rcv.parked with
  | none => .next (s.reject 5)
  | some p => .next (if s.dev = .recovering then s.reject 5 else s.discardParked p)

end Sys2Proof.Machine
end

