-- ==== Sys2Proof/Machine/Network.lean ====
section
/-! DEFINITION. What arrives on the ports: the collective protocol (R326 to R330, R339, R341 to R345), a Duo's
link (R260 to R264, R346), peer operations (R336, R337), the fabric (R319), links (R352), WALL and PTP (R347,
R348), die-to-die retries (R13). -/
namespace Sys2Proof.Machine

/-! ### Flows at the receiver (R328) -/

/-- Adds to one of a saturating counter. -/
def bump (w : Word) (n : Nat) : Word := BitVec.ofNat 32 (satAdd 32 w.toNat n)

/-- Whether a PSN has been taken before. -/
def Flow.took (f : Flow) (psn : Word) : Bool := decide (2 ^ 31 ≤ (psn - f.rxNext).toNat) || decide (psn ∈ f.rxOoo)

/-- The bitmap of the 64 PSNs that follow the cumulative one. -/
def Flow.bitmap (f : Flow) : Nat := ((List.range 64).filter (fun i => decide (f.rxNext + BitVec.ofNat 32 i ∈ f.rxOoo))).foldl (fun n i => n + 2 ^ i) 0

/-- The acknowledgement of what a rank has sent. -/
def State.ackTo (s : State) (rank : Nat) : State :=
  let f := s.net.flow rank
  let p := { s.packet 2 rank s.curStepWord 0 with psn := f.rxNext - 1, cdig := BitVec.ofNat 64 f.bitmap }
  ({ s with net := s.net.setFlow { f with rxPend := 0 } }).emit rank p

/-- A packet of a rank's flow has come, with the PSNs that are acknowledged from now on: every sixteenth packet brings an
acknowledgement at once (R328). -/
def State.noted (s : State) (r : Nat) (psns : List Word) : State :=
  let f := psns.foldl Flow.take (s.net.flow r)
  let f := { f with rxPend := f.rxPend + 1 }
  let t := { s with net := s.net.setFlow f }
  if 16 ≤ f.rxPend then t.ackTo r else t

/-- A sequenced packet is taken. -/
def State.received (s : State) (p : Packet) : State := s.noted p.srank.toNat [p.psn]

/-- The packet is dropped as a repetition. -/
def State.dropDup (s : State) : State := { s with net := { s.net with dupDrop := bump s.net.dupDrop 1 } }

/-- Two copies of one packet, flag or boundary differ (R327, R346). -/
def State.copiesDiffer (s : State) (p : Packet) : State := s.ev 0x4017 p.srank.toNat (p.stepw.toNat * 2 ^ 32 + p.cmdw.toNat)

/-- BUSY in place of an acknowledgement (R330). -/
def State.answerBusy (s : State) (p : Packet) : State :=
  let r := p.srank.toNat
  ({ s with net := { s.net with busy := bump s.net.busy 1 } }).emit r { s.packet 7 r p.stepw p.cmdw with psn := p.psn }

/-- A packet goes to the job whose JTAG it carries, the current or the parked one; another is dropped and
counted (R327, R417, R420). -/
def State.forJobOf (s : State) (p : Packet) (f : State → State) : State :=
  let bad := { s with net := { s.net with badTag := bump s.net.badTag 1 } }
  if s.dev = .off ∨ s.dev = .booting then s
  else if p.ver ≠ 1 then bad
  else if s.jobSt ≠ .empty ∧ p.jtag = s.job.tag then f s
  else
    match s.rcv.parked with
    | some q => if p.jtag = q.job.tag then s.forParked q f else bad
    | none => bad

/-! ### DATA (R327, R329, R330) -/

/-- Whether the command of a step word and command word has not issued yet. -/
def State.isEarly (s : State) (stepw cmdw : Word) : Bool :=
  let cur := s.curStepWord
  if stepw = cur then decide (s.stepRel s.nextIssue ≤ cmdw.toNat)
  else if stepw = 0xFFFFFFFF then false
  else if s.job.step.isNone then true
  else decide ((stepw - cur).toNat < 2 ^ 31)

/-- Whether the early-arrival reserve has no room for a packet. -/
def State.reserveFull (s : State) (p : Packet) : Bool :=
  s.isEarly p.stepw p.cmdw
    && decide (s.cfg 0x0109 * 0x800000 < (s.net.chunks.filter (fun c => s.isEarly c.stepw c.cmdw)).foldl (fun n c => n + c.held) p.payload.length)

/-- Whether a chunk is the one a packet belongs to. -/
def ChunkRx.takes (c : ChunkRx) (p : Packet) : Bool :=
  c.rank == p.srank.toNat && c.stepw == p.stepw && c.cmdw == p.cmdw && c.seg == p.seg.toNat && c.part == p.part.toNat && c.chunk == p.chunk.toNat

/-- Inserts a packet by number. -/
def insPkt (p : Nat × List Byte) : List (Nat × List Byte) → List (Nat × List Byte)
  | [] => [p]
  | q :: r => if p.1 ≤ q.1 then p :: q :: r else q :: insPkt p r

/-- A chunk with one packet more; what is acknowledged from now on follows. Log entry 55: DEDUCED. -/
def State.growChunk (s : State) (c : ChunkRx) : State :=
  let (t, ps) := s.judge c
  t.noted c.rank ps

/-- A DATA packet for this job. -/
def State.takeData (s : State) (p : Packet) : State :=
  if s.dev = .recovering ∨ s.reserveFull p = true then s.answerBusy p
  else
    let one := (p.pkt.toNat, p.payload)
    let u := match s.net.chunks.find? (fun c => c.takes p) with
      | none =>
        s.growChunk ⟨p.srank.toNat, p.stepw, p.cmdw, p.seg.toNat, p.part.toNat, p.chunk.toNat, p.cdig, [one], [p.psn], false, 0⟩
      | some c =>
        if c.whole then (if p.cdig = c.cdig then s.received p else (s.received p).copiesDiffer p).dropDup
        else if (c.pkts.lookup p.pkt.toNat).isSome then (s.noted c.rank []).dropDup
        else s.growChunk { c with pkts := insPkt one c.pkts, psns := p.psn :: c.psns, cdig := if c.pkts.isEmpty then p.cdig else c.cdig }
    if u.live then u.collProgress else u

/-- The FEC of a port (R318, R350): its counts rise by what was corrected and what was not, and 0x6003 marks each
multiple of 1,024 that the uncorrectable count reaches (R352). -/
def State.countFec (s : State) (o : FecObs) : State :=
  let a := (s.net.fecUnc.getD o.port 0).toNat
  let b := satAdd 32 a o.unc
  let t := { s with net := { s.net with
    fecCor := upd s.net.fecCor o.port (fun w => bump w o.cor), fecUnc := upd s.net.fecUnc o.port (fun w => bump w o.unc) } }
  (List.range (b / 1024 - a / 1024)).foldl (fun u i => u.ev 0x6003 o.port (1024 * (a / 1024 + 1 + i))) t

/-- DATA_PACKET_RECEIVE, with what the port's FEC has met since the last one. Log entry 105: DESIGN CHOICE. -/
def execDataPacketReceive (x : DataRx) (s : State) : Host.Outcome State Fault Refusal :=
  .next (if s.dev = .off ∨ s.dev = .booting then s else (s.countFec x.fec).forJobOf x.pkt (fun t => t.takeData x.pkt))

/-! ### Acknowledgements and retransmission (R328, R330) -/

/-- An acknowledgement for this job: what every module of the rank has acknowledged is released (R328, R346), retries begin
again from 0, and what the windows and tags now admit goes out. -/
def State.takeAck (s : State) (p : Packet) : State :=
  let r := p.srank.toNat
  let f := s.net.flow r
  let got := fun (x : TxPkt) =>
    let d := (x.pkt.psn - p.psn).toNat
    decide (d = 0 ∨ 2 ^ 31 ≤ d) || (decide (d ≤ 64) && p.cdig.getLsbD (d - 1))
  let left := (f.unacked.map (fun (x : TxPkt) =>
    { x with tries := 0, acked := if got x then insertNat (p.dup.toNat % 2) x.acked else x.acked })).filter (fun x =>
      !(s.modulesOf r).all (fun m => decide (m ∈ x.acked)))
  (({ s with net := s.net.setFlow { f with unacked := left } }).flush r).flushAll

/-- ACK_PACKET_RECEIVE. -/
def execAckPacketReceive (p : Packet) (s : State) : Host.Outcome State Fault Refusal := .next (s.forJobOf p (fun t => t.takeAck p))

/-- The job that has a flow with a rank: the current one, else the parked one. -/
def State.onFlow (s : State) (rank : Nat) (f : State → State) : State :=
  if s.jobSt ≠ .empty ∧ s.net.flows.any (fun g => g.rank == rank) then f s
  else
    match s.rcv.parked with
    | some q => if q.net.flows.any (fun g => g.rank == rank) then s.forParked q f else s
    | none => s

/-- ACK_TIMER: 2 µs after the first unacknowledged packet. -/
def execAckTimer (rank : Nat) (s : State) : Host.Outcome State Fault Refusal :=
  .next (s.onFlow rank (fun t => if (t.net.flow rank).rxPend = 0 then t else t.ackTo rank))

/-- A packet that has gone out is sent again, which ends a BUSY: what the flow held then goes out too (R328, R330). With
none outstanding the timeout ends the BUSY alone. -/
def State.retransmit (s : State) (rank : Nat) (psn : Word) : State :=
  let f := s.net.flow rank
  match f.unacked.find? (fun x => x.pkt.psn == psn && x.sent) with
  | none =>
    if f.busy && !f.unacked.any (fun x => x.sent) then ({ s with net := s.net.setFlow { f with busy := false } } : State).flush rank
    else s
  | some x =>
    let resetting := s.net.peers.any (fun q => q.rank == rank && q.st == .recovering)
      || (s.duoOn && rank == s.job.desc.rank && s.duo.ptnDev == 5)
    let n := if resetting then x.tries else x.tries + 1
    let un := f.unacked.map (fun (y : TxPkt) => if y.pkt.psn = psn then { y with tries := n } else y)
    let tell := decide (s.cfg 0x0106 ≤ n) && !f.told
    let t := { s with net := { (s.net.setFlow { f with unacked := un, busy := false, told := f.told || tell }) with retx := bump s.net.retx 1 } }
    let t := (t.emitAgain rank x).flush rank
    if tell then
      ({ t with net := { t.net with peers := t.net.peers.map (fun (q : Peer) => if q.rank = rank then { q with unreach := true } else q) } }).ev 0x6010 rank n
    else t

/-- RETRANSMIT_TIMEOUT. -/
def execRetransmitTimeout (rank : Nat) (psn : Word) (s : State) : Host.Outcome State Fault Refusal :=
  .next (s.onFlow rank (fun t => t.retransmit rank psn))

/-- BUSY_PACKET_RECEIVE: nothing more goes to that receiver until a retransmission timeout. -/
def execBusyPacketReceive (p : Packet) (s : State) : Host.Outcome State Fault Refusal :=
  .next (s.forJobOf p (fun t => { t with net := t.net.setFlow { t.net.flow p.srank.toNat with busy := true } }))

/-! ### Flags and signals -/

/-- Whether the DECIDE of a step word has already been decided here. -/
def State.decided (s : State) (w : Word) : Bool :=
  match s.job.step with
  | none => w == 0xFFFFFFFF
  | some _ => let d := (w - s.curStepWord).toNat; decide (2 ^ 31 ≤ d) || (d == 0 && s.job.phase == 4)

/-- Whether this module's DECIDE of a step word has issued: its own flag stands then. -/
def State.ownFlag (s : State) (w : Word) : Bool := s.net.flagRx.any (fun x => x.rank == s.job.desc.rank && x.stepw == w)

/-- A FLAG for this job (R341, R366): the table holds 4,096 of those whose DECIDE has not issued. -/
def State.takeFlag (s : State) (p : Packet) : State :=
  let r := p.srank.toNat
  let l := p.cdig.getLsbD 0
  let v := fun (o n : Nat) => leOf ((p.payload.drop o).take n)
  match s.net.flagRx.find? (fun x => x.rank == r && x.stepw == p.stepw) with
  | some x => (if x.l = l then s.received p else (s.received p).copiesDiffer p).dropDup
  | none =>
    if s.decided p.stepw then (s.received p).dropDup
    else if !s.ownFlag p.stepw && decide (4096 ≤ (s.net.flagRx.filter (fun x => !s.ownFlag x.stepw)).length) then s.answerBusy p
    else
      let t := s.received p
      { t with net := { t.net with flagRx :=
        ⟨r, p.stepw, l, BitVec.ofNat 64 (v 0 8), v 8 4, v 12 4, BitVec.ofNat 64 (v 16 8)⟩ :: t.net.flagRx } }

/-- FLAG_PACKET_RECEIVE. -/
def execFlagPacketReceive (p : Packet) (s : State) : Host.Outcome State Fault Refusal := .next (s.forJobOf p (fun t => t.takeFlag p))

/-- A SIGNAL for this job is added to its counter once (R339). Log entry 54: DEDUCED. -/
def State.takeSignal (s : State) (p : Packet) : State :=
  let k := (p.srank.toNat, p.stepw, p.cmdw)
  let t := s.received p
  if k ∈ s.net.sigSeen then t.dropDup
  else
    { t with
      net := { t.net with sigSeen := k :: t.net.sigSeen }
      job := { t.job with sigs := upd t.job.sigs (p.cdig.toNat / 2 ^ 32 % 64) (· + p.cdig.truncate 32) } }

/-- SIGNAL_PACKET_RECEIVE. -/
def execSignalPacketReceive (p : Packet) (s : State) : Host.Outcome State Fault Refusal := .next (s.forJobOf p (fun t => t.takeSignal p))

/-! ### Keepalives and peers (R342, R343) -/

/-- KEEPALIVE_SEND: the current job's and the parked job's keepalives. -/
def execKeepaliveSend (s : State) : Host.Outcome State Fault Refusal :=
  if s.dev = .off ∨ s.dev = .booting then .next s
  else
    let t := if s.jobSt = .empty then s else s.keepalives s.devst s.jobSt s.rcv.count s.drn.beat
    .next (match t.rcv.parked with | some q => t.forParked q (fun u => u.keepalives s.devst .paused q.count q.at_) | none => t)

/-- Changes what is kept of a rank. Log entry 58: DEDUCED. -/
def Net.setPeer (n : Net) (r : Nat) (f : Peer → Peer) : Net :=
  { n with peers := n.peers.map (fun q => if q.rank = r then f q else q) }

/-- A rank's peer state. -/
def Net.peerSt (n : Net) (r : Nat) : Option PeerSt := (n.peers.find? (fun q => q.rank == r)).map (fun q => q.st)

/-- A rank enters a peer state, with the event of R343 where it was in another. -/
def State.peerTo (s : State) (r : Nat) (st : PeerSt) (code a1 : Nat) : State :=
  match s.net.peerSt r with
  | none => s
  | some old =>
    let t := { s with net := s.net.setPeer r (fun (q : Peer) => { q with st := st }) }
    if old = st ∨ code = 0 then t else t.ev code r a1

/-- A keepalive for this job: the partner's in a Duo, or a peer's. Log entry 58: DEDUCED. -/
def State.takeKeepalive (s : State) (p : Packet) : State :=
  let r := p.srank.toNat
  let c := p.cdig.toNat
  let dv := bits c 63 61
  let js := bits c 60 57
  let n := bits c 56 49
  if r = s.job.desc.rank then
    if s.duoOn then { s with duo := { s.duo with ptnArmed := decide (2 ≤ js ∧ js ≤ 5), ptnDev := dv } } else s
  else
    let t := { s with net := s.net.setPeer r (fun (q : Peer) => { q with devst := dv, jobst := js, resets := n, drone := p.cdig.truncate 32 }) }
    if dv = 5 then t.peerTo r .recovering 0x6021 n
    else if dv = 6 ∨ js = 6 ∨ js = 7 then t.peerTo r .stopped 0x6024 (dv * 2 ^ 32 + js)
    else if dv = 3 then t.peerTo r .up 0 0
    else t

/-- KEEPALIVE_RECEIVE. -/
def execKeepaliveReceive (p : Packet) (s : State) : Host.Outcome State Fault Refusal := .next (s.forJobOf p (fun t => t.takeKeepalive p))

/-- The job that knows a rank as a peer. -/
def State.onPeer (s : State) (rank : Nat) (f : State → State) : State :=
  if s.jobSt ≠ .empty ∧ (s.net.peerSt rank).isSome then f s
  else
    match s.rcv.parked with
    | some q => if (q.net.peerSt rank).isSome then s.forParked q f else s
    | none => s

/-- PEER_SILENT: no packet has come from a rank for NET_KATIMEOUT periods. -/
def execPeerSilent (rank : Nat) (s : State) : Host.Outcome State Fault Refusal :=
  .next (s.onPeer rank (fun t =>
    t.peerTo rank .silent 0x6020 (((t.net.peers.find? (fun q => q.rank == rank)).map (fun q => q.drone.toNat)).getD 0)))

/-- PEER_REJOIN_SETTLE: one keepalive period after a RESYNC. -/
def execPeerRejoinSettle (rank : Nat) (s : State) : Host.Outcome State Fault Refusal :=
  .next (s.onPeer rank (fun t => if t.net.peerSt rank = some .rejoined then t.peerTo rank .up 0 0 else t))

/-- Whether packets of a step word sent to a rank are no longer here: not kept, or released since. -/
def State.lostTo (s : State) (r : Nat) (w : Word) : Bool :=
  (w, r) ∈ s.net.unkept || (s.released w && (s.net.flow r).nextPsn != 0)

/-- A RESYNC for this job: what was kept counts as unacknowledged and goes out again, or it is refused (R345); a
refusal ends this rank's own replay (R405). Either is a packet of its flow (R328). Log entry 57: DEDUCED. -/
def State.takeResync (s : State) (p : Packet) : State :=
  let r := p.srank.toNat
  let w := p.stepw
  let t := s.received p
  if (s.net.flow r).took p.psn then t.dropDup
  else if p.drank = p.srank ∧ p.len = 0 then
    if t.live ∧ t.rcv.replayTo.isSome = true then
      let i := (t.rcv.resume.map (fun x => x.stepIdx)).getD 0
      (((t.ev 0xA053 w.toNat 3).noteFault i 0xA053)).faultNow
    else t
  else
    let t := t.peerTo r .rejoined 0x6022 w.toNat
    let ws := [w, t.wordAfter w]
    if ws.any (t.lostTo r) then
      (t.send r { t.packet 6 r w 0 with drank := BitVec.ofNat 16 t.job.desc.rank }).ev 0x6023 r w.toNat
    else
      let ps := (t.net.retain.filter (fun k => decide (k.1 ∈ ws) && k.2.drank.toNat == r)).map (fun k => k.2)
      let f := t.net.flow r
      let new := ps.filter (fun q => !f.unacked.any (fun x => x.pkt.psn == q.psn))
      let again := fun (x : TxPkt) => if ps.any (fun q => q.psn == x.pkt.psn) then { x with sent := false, acked := [] } else x
      ({ t with net := t.net.setFlow { f with unacked := new.map (fun q => (⟨q, 0, false, []⟩ : TxPkt)) ++ f.unacked.map again } }).flush r

/-- RESYNC_RECEIVE. Log entry 57: DEDUCED. -/
def execResyncReceive (p : Packet) (s : State) : Host.Outcome State Fault Refusal := .next (s.forJobOf p (fun t => t.takeResync p))

/-! ### The Duo link (R260 to R264, R346) -/

/-- The boundary messages of a payload: beat, commands, digest. `fuel` bounds them. Log entry 59: DESIGN CHOICE. -/
def bndsOf : Nat → List Byte → List Bnd
  | 0, _ => []
  | fuel + 1, bs =>
    if bs.length < 24 then []
    else ⟨leOf (bs.take 8), leOf ((bs.drop 8).take 8), BitVec.ofNat 64 (leOf ((bs.drop 16).take 8))⟩ :: bndsOf fuel (bs.drop 24)

/-- The partner's boundaries go behind those held, and are kept as long as RDs are (R262). -/
def Duo.addPtn (d : Duo) (bs : List Bnd) : Duo :=
  let last := (bs.getLast?.map (fun b => b.beat)).getD d.lastPtn
  { d with
    ptn := d.ptn ++ bs, lastPtn := max d.lastPtn last
    seen := (d.seen ++ bs).filter (fun b => decide (last < b.beat + 131072)) }

/-- What a DUO packet carries: boundaries, RDs or the loading digest (R346). Log entry 59: DESIGN CHOICE. -/
def State.readDuo (s : State) (p : Packet) : State :=
  if p.part = 2 then
    let u := { s with duo := { s.duo with ptnLoad := some (BitVec.ofNat 64 (leOf (p.payload.take 8))) } }
    if u.jobSt = .armed then u.duoLoad else u
  else if p.part = 1 then
    let n := p.payload.length / 8
    { s with duo := { s.duo with
      ptnRds := s.duo.ptnRds ++ (List.range n).map (fun i => BitVec.ofNat 64 (leOf ((p.payload.drop (8 * i)).take 8))) } }
  else if s.duo.lost then s
  else { s with duo := s.duo.addPtn (bndsOf 170 p.payload) }

/-- Whether a boundary differs from the copy of it that came before (R346). -/
def Duo.conflict (d : Duo) (b : Bnd) : Bool := d.seen.any (fun x => x.beat == b.beat && x != b)

/-- A DUO packet: those of the flow are read in the order of their PSNs. Log entry 59: DESIGN CHOICE. -/
def State.takeDuo (s : State) (p : Packet) : State :=
  let f := s.net.flow p.srank.toNat
  let t := s.received p
  if f.took p.psn then
    (if p.part = 0 && (bndsOf 170 p.payload).any t.duo.conflict then t.copiesDiffer p else t).dropDup
  else
    let dist := fun (q : Packet) => (q.psn - f.rxNext).toNat
    let held := (s.duo.held.filter (fun q => decide (dist q < dist p))) ++ p :: s.duo.held.filter (fun q => decide (dist p < dist q))
    let next := (t.net.flow p.srank.toNat).rxNext
    let now := held.filter (fun q => decide (2 ^ 31 ≤ (q.psn - next).toNat))
    let u := now.foldl State.readDuo { t with duo := { t.duo with held := held.filter (fun q => !decide (2 ^ 31 ≤ (q.psn - next).toNat)) } }
    if u.live then u.duoCompare (u.duo.ptn.length + 1) else u

/-- DUO_PACKET_RECEIVE (R346). -/
def execDuoPacketReceive (p : Packet) (s : State) : Host.Outcome State Fault Refusal :=
  .next (if s.duoOn then s.forJobOf p (fun t => t.takeDuo p) else s)

/-- DUO_MESSAGE_SEND: up to 170 messages of boundaries that are whole (R262, R346). -/
def execDuoMessageSend (s : State) : Host.Outcome State Fault Refusal :=
  let ready := s.duo.send.takeWhile (fun b => s.wholeBnd b.beat)
  if s.duoOn && !ready.isEmpty then
    let bs := ready.take 170
    let t := { s with duo := { s.duo with send := s.duo.send.drop bs.length } }
    .next (t.sendDuo 0 (bs.flatMap (fun b => leBytes 8 b.beat ++ leBytes 8 b.count ++ leBytes 8 b.dig.toNat)))
  else .next s

/-- DUO_PARTNER_SILENT: no partner message for 10 ms, and the policy NET_DUOPOL (R264). Log entry 33: DEDUCED. -/
def execDuoPartnerSilent (s : State) : Host.Outcome State Fault Refusal :=
  if s.duoOn && s.live && !s.duo.lost then
    let t := ({ s with duo := { s.duo with lost := true } }).ev 0xA013 s.duo.lastPtn 0
    .next (if s.cfg 0x010D = 0 then (t.noteFault t.nextIssue 0xA013).faultNow else t)
  else .next s

/-- The first place at which two lists of result digests differ: this module's command there with its core, and both
digests. -/
def firstRd : List (Nat × Nat × DWord) → List DWord → Option (Option (Nat × Nat) × DWord × DWord)
  | [], [] => none
  | (i, c, d) :: r, e :: es => if d = e then firstRd r es else some (some (i, c), d, e)
  | (i, c, d) :: _, [] => some (some (i, c), d, 0)
  | [], e :: _ => some (none, 0, e)

/-- DUO_RD_EXCHANGE_COMPLETE: with both modules' RDs here, the divergent command and its core are named, and the job stops
(R263). Log entry 59: DESIGN CHOICE. -/
def execDuoRdExchangeComplete (rds : List DWord) (s : State) : Host.Outcome State Fault Refusal :=
  match s.duo.pendMis with
  | none => .next s
  | some b =>
    let t := s.runTo .ahead
    match firstRd ((t.duo.rds.filter (fun r => r.1 == b)).map (fun r => r.2)) (t.duo.ptnRds ++ rds) with
    | none => .next t
    | some (i, d, e) =>
      let (ic, t) := match i with | some x => (x, t) | none => let (n, u) := t.nat; ((n, 0xFF), u)
      let t := { t with duo := { t.duo with pendMis := none, ptnRds := [], idx := BitVec.ofNat 64 ic.1, rdOwn := d, rdPtn := e } }
      let t := t.event 0xA011 ic.2 (if ic.2 = 0xFF then 0 else t.dieOf ic.2 % 4) FieldRef.nil (BitVec.ofNat 64 ic.1)
        (BitVec.ofNat 64 (t.stepWord ic.1).toNat) (BitVec.ofNat 64 (t.stepRel ic.1))
      .next (if t.live then (t.noteFault ic.1 0xA011).faultNow else t)

/-! ### Peer operations (R336 to R338) -/

/-- Whether the job takes peer operations from a rank: both ranks have RDMA = 1, and the job is ARMED to
PAUSED. -/
def State.rdmaFrom (s : State) (r : Nat) : Bool :=
  decide (1 < s.job.desc.nrank ∧ r < s.job.desc.nrank ∧ r ≠ s.job.desc.rank) && bitAt (s.rankFlags r) 0 && bitAt (s.rankFlags s.job.desc.rank) 0

/-- Whether a job state takes peer operations. -/
def JobSt.takesPeers : JobSt → Bool
  | .armed | .running | .held | .paused => true
  | _ => false

/-- Whether R337 admits the bytes of an operation, under the page attributes `pat`. Log entry 62: DEDUCED. -/
def State.peerOk (s : State) (pat : List (Nat × Nat)) (core : Option Nat) (addr len : Nat) (wr : Bool) : Bool :=
  match core with
  | some c => decide (addr + len ≤ 0x600000 ∧ c < s.nActive)
  | none =>
    decide (addr + len ≤ hbmEnd) && (pagesIn addr len).all (fun p =>
      let e := sparse pat p
      bitAt e 15 && !bitAt e 9 && (!wr || (bitAt e 14 && !bitAt e 13)))

/-- A peer operation is refused with a remote access error (R337). -/
def State.refusePeer (s : State) (rank addr : Nat) : State := ({ s with reply := [] }).ev 0x6012 rank addr

/-- An operation on this job, which `act` performs where R337 admits it. Log entry 62: DEDUCED. -/
def State.peerOp (s : State) (rank : Nat) (core : Option Nat) (addr len : Nat) (wr : Bool) (act : State → State) : State :=
  if !s.rdmaFrom rank || !s.jobSt.takesPeers || !s.peerOk s.pat.cur core addr len wr then s.refusePeer rank addr
  else act s

/-- A peer operation goes to the job whose JTAG is its remote key, the current or the parked one: on the parked job's
scratchpads it waits (R417). A resetting device answers receiver not ready (R403); with no such job it is refused (R336,
R337). -/
def State.onPeerOp (s : State) (rank : Nat) (rkey : Word) (core : Option Nat) (addr : Nat) (f : State → State) : State :=
  if s.dev = .recovering ∨ s.dev = .off ∨ s.dev = .booting then s
  else if s.jobSt ≠ .empty ∧ rkey = s.job.tag then f s
  else
    match s.rcv.parked with
    | some q =>
      if rkey ≠ q.job.tag then s.refusePeer rank addr
      else if core.isSome then s
      else
        let t := s.forParked q (fun u => f { u with pat := q.pat })
        { t with pat := s.pat }
    | none => s.refusePeer rank addr

/-- A peer's bytes to HBM, page by page: a protected page is copied first (R150). -/
def State.peerHbm (s : State) (addr : Nat) (data : List Byte) : State :=
  (pageRuns addr data.length).foldl (fun t r =>
    t.landOrWait ⟨.hbm, r.1, (data.drop (r.1 - addr)).take r.2⟩) s

/-- PEER_RDMA_WRITE. -/
def execPeerRdmaWrite (by_ : PeerKey) (core : Option Nat) (addr : Nat) (data : List Byte) (s : State) : Host.Outcome State Fault Refusal :=
  .next (s.onPeerOp by_.rank by_.rkey core addr (fun t => t.peerOp by_.rank core addr data.length true (fun u =>
    match core with
    | none => u.peerHbm addr data
    | some c =>
      let v := u.store ⟨.core (u.logical c), addr, data⟩
      { v with net := { v.net with rdmaSpd := if v.curStepWord ∈ v.net.rdmaSpd then v.net.rdmaSpd else v.curStepWord :: v.net.rdmaSpd } })))

/-- PEER_RDMA_READ: the bytes go to the peer. -/
def execPeerRdmaRead (by_ : PeerKey) (core : Option Nat) (addr len : Nat) (s : State) : Host.Outcome State Fault Refusal :=
  .next (s.onPeerOp by_.rank by_.rkey core addr (fun t => t.peerOp by_.rank core addr len false (fun u =>
    match core with
    | none => { u.readBad addr len with reply := u.hbm.read addr len }
    | some c => { u with reply := u.raw (.core (u.logical c)) addr len })))

/-! ### The fabric (R319) -/

/-- Whether a port carries job traffic. -/
def State.jobPort (s : State) (p : Nat) : Bool := decide (p < s.jobPorts)

/-- An address as the image writes it: IPv4 mapped into IPv6. Log entry 61: DEDUCED. -/
def mapped (a : List Byte) : List Byte := if a.length = 4 then List.replicate 10 0 ++ [0xFF, 0xFF] ++ a else a

/-- ADDRESS_RESOLUTION_REQUEST: the device answers for its job address on every job port; the answer
names that address. Log entry 61: DEDUCED. -/
def execAddressResolutionRequest (port : Nat) (addr : List Byte) (s : State) : Host.Outcome State Fault Refusal :=
  if s.dev ≠ .off ∧ s.dev ≠ .booting ∧ s.jobPort port = true ∧ s.net.portUp.getD port false = true then
    .next { s with reply := if mapped addr = imgBytes s.img 0x0102 then imgBytes s.img 0x0102 else [] }
  else .next s

/-- CONGESTION_NOTIFICATION: the sending rate falls. -/
def execCongestionNotification (port : Nat) (s : State) : Host.Outcome State Fault Refusal :=
  .next (if s.jobPort port then { s with net := { s.net with slowed := s.net.slowed.set port true } } else s)

/-- PFC_PAUSE_FRAME: the job traffic's priority is paused or released. -/
def execPfcPauseFrame (port : Nat) (prio : BitVec 3) (pause : Bool) (s : State) : Host.Outcome State Fault Refusal :=
  .next (if s.net.portUp.getD port false && prio.toNat == s.cfg 0x0103 then
    { s with net := { s.net with portPfc := s.net.portPfc.set port pause } } else s)

/-- ETH_LINK_UP. -/
def execEthLinkUp (port : Nat) (phy : BitVec 4) (lanes : Byte) (s : State) : Host.Outcome State Fault Refusal :=
  if s.nPorts ≤ port ∨ s.dev = .off ∨ s.dev = .booting then .next s
  else
    let n := s.net
    let t := { s with net := { n with
      portUp := n.portUp.set port true, portAn := n.portAn.set port true, phy := n.phy.set port phy.toNat, laneOk := n.laneOk.set port lanes.toNat } }
    .next (t.ev 0x6002 port phy.toNat)

/-- ETH_LINK_DOWN. -/
def execEthLinkDown (port : Nat) (s : State) : Host.Outcome State Fault Refusal :=
  if s.net.portUp.getD port false then
    let n := s.net
    let t := { s with net := { n with
      portUp := n.portUp.set port false, portAn := n.portAn.set port false, phy := n.phy.set port 0, laneOk := n.laneOk.set port 0
      portPfc := n.portPfc.set port false, slowed := n.slowed.set port false } }
    .next (t.ev 0x6001 port 0)
  else .next s

/-- LINK_TRAINING_FAIL: its event names the lanes without lock. -/
def execLinkTrainingFail (port : Nat) (lanes : Byte) (s : State) : Host.Outcome State Fault Refusal :=
  if s.nPorts ≤ port ∨ s.dev = .off ∨ s.dev = .booting then .next s
  else
    let n := s.net
    let all := if s.nPorts = 2 then 255 else 15
    let t := { s with net := { n with portAn := n.portAn.set port false, laneOk := n.laneOk.set port (lanes.toNat % (all + 1)) } }
    .next (t.ev 0x6004 port (all - lanes.toNat % (all + 1)))

/-! ### WALL (R347, R348) -/

/-- The port that takes PTP timestamps: the lowest job port whose link is up. -/
def State.ptpPort (s : State) : Option Nat := (List.range 4).find? (fun p => s.jobPort p && s.net.portUp.getD p false)

/-- A signed number held within 32 bits. -/
def clamp32 (x : Int) : Int := max (-(2 ^ 31)) (min (2 ^ 31 - 1) x)

/-- Whether a job bars WALL from stepping (R348). -/
def JobSt.barsStep : JobSt → Bool
  | .armed | .running | .held | .paused => true
  | _ => false

/-- PTP_MESSAGE: one measured offset, in the domain NET_PTPDOM. What a step may not remove, rate adjustment
corrects; a step removes an offset above 1 ms while no job is loaded, forwards only, since WALL never runs backward
(R348). Log entry 60: DESIGN CHOICE. -/
def execPtpMessage (m : PtpSample) (s : State) : Host.Outcome State Fault Refusal :=
  if s.ptpPort ≠ some m.port ∨ m.domain ≠ s.cfg 0x010B then .next s
  else
    let step := !s.jobSt.barsStep && decide (m.offset < -1000000)
    let good := if m.offset.natAbs < 100 then s.ptp.good + 1 else 0
    let p := { s.ptp with
      ofs := clamp32 m.offset, port := m.port, good := good
      adj := if step then 0 else -m.offset
      wall := if step then s.ptp.wall + m.offset.natAbs else s.ptp.wall }
    let t := { s with ptp := p }
    let arg := (m.offset % 2 ^ 64).toNat
    if p.lock && decide (1000 < m.offset.natAbs) then .next (({ t with ptp := { p with lock := false } } : State).ev 0x6031 arg 0)
    else if !p.lock && decide (16 ≤ good) then .next (({ t with ptp := { p with lock := true } } : State).ev 0x6032 arg m.port)
    else .next t

/-- PTP_SYNC_TIMEOUT: 10 s without Sync; WALL runs free. -/
def execPtpSyncTimeout (s : State) : Host.Outcome State Fault Refusal :=
  let t := { s with ptp := { s.ptp with lock := false, good := 0, adj := 0 } }
  .next (if s.ptp.lock then t.ev 0x6031 (s.ptp.ofs % 2 ^ 64).toNat 0 else t)

/-- D2D_LINK_RETRY (R13). -/
def execD2dLinkRetry (edge : BitVec 2) (s : State) : Host.Outcome State Fault Refusal :=
  .next { s with net := { s.net with d2d := upd s.net.d2d edge.toNat (fun w => bump w 1) } }

end Sys2Proof.Machine
end

