-- ==== Sys2Proof/Machine/Power.lean ====
section
/-! DEFINITION. Bellows and the power and thermal controller (R428 to R447), Patina's samples (R450), and the loss
of an arithmetic clock (R467, R471). -/
namespace Sys2Proof.Machine

/-! ### The tick (R434, R437, R439, R441, R443, R444) -/

/-- The derating of the effective cap by the coolant inlet, in W (R437); `tin` is in 1/16 °C. -/
def derate (tin : Int) : Nat := 50 * (max 0 ((tin - 640) / 16)).toNat

/-- A temperature as an event argument. -/
def tempArg (t : Int) : Nat := (t % 2 ^ 64).toNat

/-- The highest of a list with its place. -/
def hottest : Nat → List Int → Nat × Int → Nat × Int
  | _, [], m => m
  | i, t :: r, m => hottest (i + 1) r (if m.2 < t then (i, t) else m)

/-- The nominal energies of R434 in fJ: a matrix unit, a vector instruction of a block, a reduction block, a scratchpad
line, an HBM line, a link flit. -/
def nominalEnergy (c : Nat) : Nat := [574000, 920000, 600000, 38000, 1220000, 130000].getD c 0

/-- The fused energies, within ±10% of the nominal ones (R434). Log entry 81: DESIGN CHOICE. -/
def fusedEnergy (c : Nat) : Nat := nominalEnergy c * 9 / 10 + Config.energy c % (nominalEnergy c / 5 + 1)

/-- An energy scaled by the square of the voltage in force of die `d` over the nominal one (R434). -/
def State.scaled (s : State) (d e : Nat) : Nat := e * s.clk.rail.getD d 0 ^ 2 / max 1 (Config.nominalVolt ^ 2)

/-- The power of `c`'s counter over the dies, its term in P_est in 1/8 W: energies of 4 µs (R434). -/
def State.counterPower (s : State) (act : List (List Nat)) (c : Nat) : Nat :=
  ((List.range 4).map (fun d => s.scaled d ((act.getD d []).getD c 0 * fusedEnergy c))).sum / 500000000

/-- P_full in 1/8 W: the matrix power at full demand (R434). -/
def State.fullPower (s : State) : Nat :=
  ((List.range 4).map (fun d => s.scaled d (fusedEnergy 0 * 16 * (s.nActive / 4) * s.clk.mhz))).sum * 8 / 1000000000

/-- The mean of a tick's four products of voltage and current, in 1/8 W (R435). -/
def meanPower (xs : List (Nat × Nat)) : Nat := (xs.map (fun x => x.1 * x.2)).sum / 50000

/-- P_est of a tick in 1/8 W (R434). -/
def State.estimate (s : State) (r : TickReading) : Nat :=
  Config.fixedPower (hottest 0 r.tdie (0, -10000)).2 + ((List.range 6).map (s.counterPower r.act)).sum

/-- The readings of a tick. A faulty TIN reads 45 °C and a faulty TOUT 0x7FFF (R529); a powered-off compute
part has no sensor reading but those given. Log entry 81: DESIGN CHOICE. -/
def State.readings (s : State) (r : TickReading) : State :=
  let tin := if s.brd.tinSt = 0 then r.tin else 720
  let tout := if s.brd.toutSt = 0 then r.tout else 0x7FFF
  let meas := meanPower r.samples
  let est := s.estimate r
  { s with pwr := { s.pwr with
      vin := r.vin, iin := r.iin, pin := meas, pest := est, pmx := s.counterPower r.act 0, pfull := s.fullPower, act := r.act
      sumMeas := s.pwr.sumMeas + meas, sumEst := s.pwr.sumEst + est
      badSensor := s.pwr.badSensor && !r.sound, tdie := r.tdie, thbm := r.thbm, tin := tin, tout := tout } }

/-- The effective cap and its derating, with 0x7014. -/
def State.setCap (s : State) : State :=
  let d := derate s.pwr.tin
  let hot := decide (640 < s.pwr.tin)
  let c := s.effCap d
  let t := { s with pwr := { s.pwr with ceff := c, dInlet := d, hotInlet := hot } }
  if (hot && !s.pwr.hotInlet) || d != s.pwr.dInlet then t.ev 0x7014 (tempArg t.pwr.tin) c else t

/-- Itherm with the begin and end of throttles (R443). Log entry 80: DEDUCED. -/
def State.throttle (s : State) : State :=
  let (d, tj) := hottest 0 s.pwr.tdie (0, -10000)
  let (k, th) := hottest 0 s.pwr.thbm (0, -10000)
  let hotD := decide (1600 ≤ tj)
  let hotH := decide (1520 ≤ th)
  let p := s.pwr
  if hotD || hotH then
    let t := { s with pwr := { p with itherm := max 1 (p.itherm - 4) } }
    let t := if hotD && p.throtDie.isNone then ({ t with pwr := { t.pwr with throtDie := some d } }).ev 0x7010 d (tempArg tj) else t
    if hotH && p.throtHbm.isNone then ({ t with pwr := { t.pwr with throtHbm := some k } }).ev 0x7012 k (tempArg th) else t
  else if tj ≤ 1552 ∧ th ≤ 1472 ∧ p.itherm < 64 then
    let t := { s with pwr := { p with itherm := p.itherm + 1 } }
    if p.itherm + 1 < 64 then t
    else
      let t := { t with pwr := { t.pwr with throtDie := none, throtHbm := none } }
      let t := match p.throtDie with | some i => t.ev 0x7011 i (tempArg (p.tdie.getD i 0)) | none => t
      match p.throtHbm with | some i => t.ev 0x7013 i (tempArg (p.thbm.getD i 0)) | none => t
  else s

/-- The non-matrix power of R439, in 1/32,768 W. -/
def Pwr.other (p : Pwr) : Int :=
  (if p.meas then (4096 * p.pin : Int) else (p.k * p.pest : Int)) - p.k * p.pmx

/-- The class in force at a tick, and whether a PHASE's recomputation in the same cycle follows it (R451). -/
def State.tickClass (s : State) : Nat × Bool :=
  match s.pwr.phased with
  | some (c, old) => if c = s.drn.beat + s.drn.cyc then (old, true) else (s.pwr.cls, false)
  | none => (s.pwr.cls, false)

/-- The cap limit of a tick, the learned powers, and 0x7003 once a job (R438, R439, R441). A PHASE effect in the tick's
cycle is applied after it (R451). -/
def State.capTick (s : State) : State :=
  let o := s.pwr.other
  let (cls, again) := s.tickClass
  let t := { s with pwr := { s.pwr with ilim := s.capLimit o } }
  let t := if t.live && t.cfg 0x0403 == 0 then
      { t with pwr := { t.pwr with nc := some (match t.pwr.nc with
        | none => List.replicate 8 o
        | some l => upd l cls (fun n => (7 * n + o) / 8)) } }
    else t
  let t := if again then { t with pwr := { t.pwr with ilim := t.classLimit t.pwr.cls } } else t
  if t.live && !t.pwr.overload && decide (((t.pwr.ceff : Int) - t.margin) * 32768 < o) then
    ({ t with pwr := { t.pwr with overload := true } }).ev 0x7003 (o / 32768).toNat t.pwr.ceff
  else t

/-- BELLOWS_TICK: the readings of a 4 µs tick, and the limits that follow. Log entry 81: DESIGN CHOICE. -/
def execBellowsTick (r : TickReading) (s : State) : Host.Outcome State Fault Refusal :=
  if s.dev = .off ∨ s.dev = .booting then .next s else .next (((s.readings r).setCap).throttle.capTick)

/-- SLOPE_INTERVAL_END: the rest of the interval in progress passes without demand, and the delivered activity sets the
next ceiling (R432). Intervals that end while the job runs end there (`Pwr.spend`). Log entry 79: DEDUCED. -/
def execSlopeIntervalEnd (s : State) : Host.Outcome State Fault Refusal :=
  .next { s with pwr := s.pwr.slopeEnd (max s.pwr.ivCyc s.clk.mhz) s.dMax }

/-- CALIBRATION_UPDATE: ρ, k, and the change of mode (R435, R436), from the sums over the ticks of the millisecond: those
that the device was told, and `m` and `e` of the ticks that it was not. Log entry 81: DESIGN CHOICE. -/
def execCalibrationUpdate (m e : Nat) (s : State) : Host.Outcome State Fault Refusal :=
  let meas := s.pwr.sumMeas + m
  let est := s.pwr.sumEst + e
  let rho := if est = 0 then 0xFFFF else min 0xFFFF (4096 * meas / est)
  let outside := decide (100 * meas < 85 * est ∨ 115 * est < 100 * meas)
  let inside := decide (90 * est ≤ 100 * meas ∧ 100 * meas ≤ 110 * est)
  let o := if outside then s.pwr.outMs + 1 else 0
  let i := if inside then s.pwr.inMs + 1 else 0
  let p := { s.pwr with sumMeas := 0, sumEst := 0, rho := rho, k := max (4096 * 85 / 100) (min (4096 * 115 / 100) rho), outMs := o, inMs := i }
  if !p.meas && decide (10 ≤ o) then
    .next (({ s with pwr := { p with meas := true, outMs := 0, inMs := 0 } } : State).ev 0x7001 rho p.ceff)
  else if p.meas && decide (100 ≤ i) then
    .next (({ s with pwr := { p with meas := false, outMs := 0, inMs := 0 } } : State).ev 0x7002 rho 0)
  else .next { s with pwr := p }

/-- PATINA_SAMPLE: the lowest margin code of every logical core (R450). -/
def execPatinaSample (codes : List (BitVec 6)) (s : State) : Host.Outcome State Fault Refusal :=
  if s.dev = .up then
    .next ((List.range (min codes.length s.nCores)).foldl (fun t l => t.patina l (codes.getD l 0).toNat) s)
  else .next s

/-! ### Trips (R445 to R447) -/

/-- A PWR_TRIP bit is set. -/
def State.setTrip (s : State) (b : Nat) : State :=
  let t := { s with pwr := { s.pwr with trip := s.pwr.trip ||| (1#6 <<< b) } }
  if s.pwr.trip.getLsbD b then t else t.irq 6

/-- What the loss of the compute part's power takes: HBM, the cores, what lies in HBM of a parked job and
of an open epoch; a reset in progress is abandoned. Log entry 78: DEDUCED. -/
def State.losePower (s : State) : State :=
  let t := if s.mqt.epoch.isSome then s.irq 4 else s
  { t with
    hbm := [], badLines := [], cores := s.cores.map (fun _ => Core.reset), wp := []
    mqt := match s.mqt.epoch with
      | some e => { s.mqt with
          epoch := none, lastEpoch := e.epoch, lastTgt := e.tgt, lastDone := false, lastFail := true, late := []
          ctl := List.replicate 4 none }
      | none => { s.mqt with ctl := List.replicate 4 none }
    pwr := { s.pwr with off := true, phase := none }
    clk := { s.clk with stopped := true, aligned := false, relock := [], wake := [], rail := List.replicate 4 0 }
    rcv := { s.rcv with
      phase := 0, failed := false
      parked := s.rcv.parked.map (fun (p : Parked) => { p with cores := p.cores.map (fun _ => Core.reset) }) } }

/-- A compute trip with its PWR_TRIP bit (R446). Log entry 78: DEDUCED. -/
def State.trip (s : State) (b reading : Nat) : State :=
  let t := s.setTrip b
  let t := if b = 4 then { t with brd := { t.brd with pump := false } } else t
  if s.pwr.off then t
  else
    let t := t.ev 0x7020 t.pwr.trip.toNat reading
    (t.fail.losePower).settleAbort

/-- The PWR_TRIP bit of a cause. -/
def tripBit : TripCause → Nat
  | .tdie => 2 | .thbm => 3 | .leak => 4 | .sensor => 5

/-- COMPUTE_TRIP: the reading is over the cause's limit (R445); a leak needs three wet readings (R530). -/
def execComputeTrip (cause : TripCause) (reading : Nat) (s : State) : Host.Outcome State Fault Refusal :=
  let met : Bool := match cause with
    | .tdie => decide (1840 ≤ reading)
    | .thbm => decide (1680 ≤ reading)
    | .leak => decide (3 ≤ s.brd.wetRun)
    | .sensor => true
  let t := if cause = .sensor then { s with pwr := { s.pwr with badSensor := true } } else s
  .next (if met ∧ s.dev ≠ .off then t.trip (tripBit cause) reading else s)

/-! ### The clock (R467) -/

/-- The hold that a relock began ends, or goes on with the votes of others (R466, R467). -/
def State.dropVote (s : State) : State :=
  let vs := s.drn.votes.filter (fun v => v.cause != 7)
  match lowVote vs with
  | none => s.leaveHold
  | some v => { s with drn := { s.drn with cause := v.cause.toNat, die := v.die.toNat, core := v.core.toNat, votes := vs } }

/-- The domains align again after a relock; the hold that it began ends, and what waited for the clocks takes effect. -/
def State.relocked (s : State) (fails : List (Nat × Nat)) : State :=
  let u := ({ s with clk := { s.clk with aligned := false } } : State).align fails
  if u.dev = .failed then u
  else
    let v := { u with clk := { u.clk with ownVote := false } }
    (if u.clk.ownVote && u.jobSt == .held then v.dropVote else v).awake

/-- PLL_LOCK_LOSS: the clocks stop in a hold of cause 0x7, the PLLs relock and the domains align again at
the same frequency (R467); a further PLL that loses lock meanwhile joins them. -/
def execPllLockLoss (die : Nat) (alignFails : Option (List (Nat × Nat))) (s : State) : Host.Outcome State Fault Refusal :=
  if 4 ≤ die ∨ (s.clk.stopped = true ∧ s.clk.relock = []) ∨ s.dev = .off ∨ s.dev = .booting then .next s
  else
    let own := s.live && s.dev == .up && !s.drn.votes.any (fun v => v.cause == 7)
    let e := s.ev 0x2062 die s.clk.mhz
    let t := if s.clk.stopped then e else
      let u := e.bellowsHold.toGrid
      { u with clk := { u.clk with ownVote := own } }
    match alignFails with
    | some fs => .next (t.relocked fs)
    | none => .next { t with clk := { t.clk with stopped := true, aligned := false, relock := insertNat die t.clk.relock } }

/-- RELOCK_TIMEOUT: relock has not completed within 1 ms. -/
def execRelockTimeout (die : Nat) (s : State) : Host.Outcome State Fault Refusal :=
  if die ∈ s.clk.relock then
    .next (({ s with clk := { s.clk with relock := [] } } : State).ev 0x2063 die 0).fail
  else .next s

end Sys2Proof.Machine
end

