-- ==== Sys2Proof/Machine/Boot.lean ====
section
/-! DEFINITION. Boot (R468, R469, R473 to R487), the restart of the module and of its compute part (R446, R489),
module trips (R447), flash updates (R476, R488) and quotes (R491 to R495). -/
namespace Sys2Proof.Machine

/-! ### What a loss of power and a restart keep -/

/-- Every register at its Reset value, the log empty (R502): fuses, flash, the input stage and
its record remain, and so does all that has left the module. Log entry 15:
DESIGN CHOICE. -/
def State.fresh (s : State) (d : DevCond) : State :=
  { State.reset with
    pending := s.pending, fus := s.fus, dev := d, nv := s.nv, host := s.host, sent := s.sent, free := s.free
    net := { Net.reset with tx := s.net.tx, rdma := s.net.rdma }
    mqt := { Mqt.reset with remote := s.mqt.remote }
    brd := { Board.reset with stage := s.brd.stage, record := s.brd.record, tripReading := s.brd.tripReading, ref25 := s.brd.ref25 } }

/-- One region's copies changed. -/
def Nv.setCopies (n : Nv) (i : Nat) (c : Copies) : Nv := { n with copies := n.copies.set i c }

/-- The copies of region `i`, counted from 0. -/
def Nv.at_ (n : Nv) (i : Nat) : Copies := n.copies.getD i ⟨none, none⟩

/-- The SEQ a write of a region takes (R476). -/
def Copies.nextSeq (c : Copies) : Nat := max ((c.fl0.map (·.seq)).getD 0) ((c.fl1.map (·.seq)).getD 0) + 1

/-- The copy that Plinth uses: the valid one of higher SEQ, FL0's of two with equal SEQ (R475). -/
def Nv.used (n : Nv) (i : Nat) : Option Body :=
  match (n.at_ i).fl0.filter (·.valid i), (n.at_ i).fl1.filter (·.valid i) with
  | none, b => b.map (·.body)
  | some a, none => some a.body
  | some a, some b => some (if a.seq < b.seq then b.body else a.body)

/-- Byte offset of a region (R473). -/
def regionOff (i : Nat) : Nat :=
  [0, 0x10000, 0x50000, 0x90000, 0xD0000, 0xE0000, 0x100000, 0x2100000].getD i 0

/-- A region write (R476): FL1's copy, and FL0's once that has read back; a copy that fails its readback twice raises
0x8014 and is not valid. -/
def State.putCopies (s : State) (i : Nat) (b : Body) (fl1Ok fl0Ok : Bool) : State :=
  let c := s.nv.at_ i
  let k := copyOf i c.nextSeq b
  if !fl1Ok then ({ s with nv := s.nv.setCopies i ⟨c.fl0, some k.torn⟩ } : State).ev 0x8014 (regionOff i) 1
  else
    let t := { s with nv := s.nv.setCopies i ⟨some (if fl0Ok then k else k.torn), some k⟩ }
    if fl0Ok then t else t.ev 0x8014 (regionOff i) 0

/-- The region a flash write goes to, counted from 0, and what it writes. -/
def Upd.target : Upd → Nat × Option Body
  | .slot n fw => (6 + n, some (.firmware fw))
  | .user p => (2, some (.user p))
  | .erase => (2, none)
  | .own i b => (i, some b)

/-- A copy of the write `u` of region `i` whole (none: erased), or torn. -/
def Copies.new (c : Copies) (i : Nat) (b : Option Body) : Option Copy := b.map (copyOf i c.nextSeq)

/-- A write that a loss of power interrupts: FL1's copy is old, torn or new, and FL0's old, torn or new behind a new one
(R476). Log entry 91: DESIGN CHOICE. -/
def State.tearUpd (s : State) : State :=
  match s.pln.flash with
  | [] => s
  | u :: _ =>
    let i := u.target.1
    let c := s.nv.at_ i
    let new := c.new i u.target.2
    let torn := some ((new.getD (copyOf i c.nextSeq (.attest 0))).torn)
    let (n, s) := s.nat
    let c' : Copies := match n % 5 with
      | 0 => c
      | 1 => ⟨c.fl0, torn⟩
      | 2 => ⟨c.fl0, new⟩
      | 3 => ⟨torn, new⟩
      | _ => ⟨new, new⟩
    { s with nv := s.nv.setCopies i c' }

/-- The module loses its power. Log entry 91: DESIGN CHOICE. -/
def State.powerLost (s : State) : State := (s.tearUpd).fresh .off

/-- MODULE_TRIP: the comparators' condition is met (R445); the stage opens and keeps its cause (R447,
R524). -/
def execModuleTrip (cause : ModTripCause) (reading : Nat) (s : State) : Host.Outcome State Fault Refusal :=
  let met : Bool := match cause with
    | .iin => decide (75000 < reading)
    | .under => decide (reading < 3800)
    | .over => decide (6200 < reading)
  let b := match cause with | .iin => 1 | .under => 2 | .over => 3
  if met = true ∧ s.brd.stage = .closed then
    let t := s.powerLost
    .next { t with brd := { t.brd with stage := .latched, record := t.brd.record ||| (1#8 <<< b), tripReading := reading } }
  else .next s

/-! ### Flash copies (R473 to R475) -/

/-- The write of a copy during a boot: one that fails its readback twice raises 0x8014 (R476). -/
def State.bootWrite (s : State) (inp : BootInput) (i : Nat) (b : Body) : State :=
  s.putCopies i b (decide ((1, i + 1) ∉ inp.badWrites)) (decide ((0, i + 1) ∉ inp.badWrites))

/-- Plinth rewrites the used copy `k` of a region over the copy on device `d` (R475). -/
def State.repair (s : State) (inp : BootInput) (i d : Nat) (k : Copy) : State :=
  let bad := decide ((d, i + 1) ∈ inp.badWrites)
  let k := some (if bad then k.torn else k)
  let c := s.nv.at_ i
  ({ s with nv := s.nv.setCopies i (if d = 0 then ⟨k, c.fl1⟩ else ⟨c.fl0, k⟩) } : State).ev (if bad then 0x8014 else 0x8012) (regionOff i) d

/-- Plinth reads both copies of a region, uses the valid one with the higher SEQ and repairs the other; the payload
used, none where no copy is valid (R475). -/
def State.readRegion (s : State) (inp : BootInput) (i : Nat) : State × Option Body :=
  let c := s.nv.at_ i
  let v := fun (d : Nat) (x : Option Copy) => x.filter (fun k => k.valid i && decide ((d, i + 1) ∉ inp.badCopies))
  match v 0 c.fl0, v 1 c.fl1 with
  | none, none => (s, none)
  | some a, none => (s.repair inp i 1 a, some a.body)
  | none, some b => (s.repair inp i 0 b, some b.body)
  | some a, some b =>
    if a.seq < b.seq then (s.repair inp i 0 b, some b.body)
    else if b.seq < a.seq then (s.repair inp i 1 a, some a.body)
    else (if a.hash = b.hash then s else s.ev 0x8013 (regionOff i) a.seq, some a.body)

/-! ### Firmware (R482 to R484) -/

/-- Why an image fails verification (0x8001): the ROM holds four keys of each kind, and no signature verifies under a slot
beyond them. Log entry 85: DEDUCED. -/
def imageFault (s : State) (ecdsaOk lmsOk : Bool) (eKey lKey : Nat) (svn : Option Nat) : Option Nat :=
  let e := ecdsaOk && decide (eKey < 4)
  let l := lmsOk && decide (lKey < 4)
  if !e && !l then some 3
  else if !e then some 1
  else if !l then some 2
  else if eKey ∈ s.fus.revEcdsa ∨ lKey ∈ s.fus.revLms then some 4
  else match svn with
    | some v => if v < s.fus.svnFloor then some 5 else none
    | none => none

/-- Why a slot's payload fails verification. Log entry 85: DEDUCED. -/
def State.fwFault (s : State) (f : FwPayload) : Option Nat := imageFault s f.ecdsaOk f.lmsOk f.ecdsaKey f.lmsKey (some f.svn)

/-- The bytes of a slot payload (R482). -/
def FwPayload.bytes (f : FwPayload) : List Byte :=
  leBytes 4 f.version ++ leBytes 4 f.svn ++ leBytes 1 (f.ecdsaKey * 16 + f.lmsKey) ++ leBytes 3 0 ++ leBytes 4 f.body.length
    ++ List.replicate 48 0 ++ (f.sigs ++ List.replicate 8288 0).take 8288 ++ f.body

/-- A slot of the boot control. -/
def State.fwSlot (s : State) (n : Nat) : FwSlot := s.nv.slots.getD n ⟨.empty, 0, 0⟩

/-- Changes a slot of the boot control. -/
def State.setSlot (s : State) (n : Nat) (f : FwSlot → FwSlot) : State := { s with nv := { s.nv with slots := upd s.nv.slots n f } }

/-- The boot-control payload (R483). -/
def State.control (s : State) : Body := .control s.nv.slots s.nv.bootCnt

/-- A write of the boot control behind the flash writes that wait (R495). -/
def State.saveControl (s : State) : State := { s with pln := { s.pln with flash := s.pln.flash ++ [.own 0 s.control] } }

/-- A slot changed at boot, with its write. -/
def State.bootSlot (s : State) (inp : BootInput) (n : Nat) (f : FwSlot → FwSlot) : State :=
  let t := s.setSlot n f
  t.bootWrite inp 0 t.control

/-- A slot becomes BAD (R475, R483). -/
def State.badSlot (s : State) (inp : BootInput) (n : Nat) : State := s.bootSlot inp n (fun (x : FwSlot) => { x with st := .bad })

/-- Verifies slot `n`, whose region holds `fws n` or no valid copy: a failing slot becomes BAD. -/
def State.tryFw (s : State) (inp : BootInput) (fws : List (Option FwPayload)) (n : Nat) : State × Bool :=
  match (match fws.getD n none with | some f => s.fwFault f | none => some 6) with
  | some w => ((s.badSlot inp n).ev 0x8001 n w, false)
  | none => (s, true)

/-- Step 4 of R483: slots whose tries are spent. -/
def State.spentSlots (s : State) : List Nat :=
  (List.range 2).filter (fun n => (s.fwSlot n).st == .pending && decide (2 ≤ (s.fwSlot n).tries))

/-- Step 1: the first PENDING slot that verifies. -/
def State.tryPending (inp : BootInput) (fws : List (Option FwPayload)) : List Nat → State → State × Option Nat
  | [], s => (s, none)
  | n :: r, s =>
    if (s.fwSlot n).st = .pending then
      match s.tryFw inp fws n with
      | (t, true) => (t, some n)
      | (t, false) => State.tryPending inp fws r t
    else State.tryPending inp fws r s

/-- Step 2: of the GOOD slots that verify, the one of higher VERSION. -/
def State.tryGood (s : State) (inp : BootInput) (fws : List (Option FwPayload)) : State × Option Nat :=
  let one := fun (a : State × List Nat) (n : Nat) =>
    if (a.1.fwSlot n).st = .good then
      match a.1.tryFw inp fws n with
      | (t, true) => (t, a.2 ++ [n])
      | (t, false) => (t, a.2)
    else a
  let (t, ok) := [0, 1].foldl one (s, [])
  (t, match ok with
    | [a, b] => some (if (t.fwSlot a).version < (t.fwSlot b).version then b else a)
    | [a] => some a
    | _ => none)

/-- Stage B3: the slot to boot, and whether on trial. Log entry 84: DEDUCED. -/
def State.chooseSlot (s : State) (inp : BootInput) (fws : List (Option FwPayload)) : State × Option (Nat × Bool) :=
  let spent := s.spentSlots
  let t := spent.foldl (fun u n => u.badSlot inp n) s
  let told := fun (v : State) => spent.foldl (fun v k => v.ev 0x8003 k (v.fwSlot k).version) v
  match State.tryPending inp fws [0, 1] t with
  | (u, some n) => (told (u.bootSlot inp n (fun (x : FwSlot) => { x with tries := x.tries + 1 })), some (n, true))
  | (u, none) =>
    match u.tryGood inp fws with
    | (v, some n) => (told v, some (n, false))
    | (v, none) => (v, none)

/-! ### The configuration image (R477 to R480) -/

/-- The fields that enter CFGDIG. -/
def digestedIds : List Nat :=
  [0x0101, 0x0109, 0x010A, 0x010D, 0x0201, 0x0301, 0x0305, 0x0403, 0x0501, 0x0502, 0x0503, 0x0504, 0x0505]

/-- The range of a field that is one number. -/
def idRange (id : Nat) : Nat × Nat :=
  ([(0x0101, 0, 2), (0x0103, 0, 7), (0x0104, 1024, 65535), (0x0105, 4, 1000), (0x0106, 4, 255), (0x0107, 10, 10000),
    (0x0108, 2, 1000), (0x0109, 0, 8192), (0x010A, 0, 16384), (0x010C, 0, 1), (0x010D, 0, 1), (0x0201, 0, 1), (0x0202, 1, 8760),
    (0x0301, 1, 32), (0x0302, 1, 16), (0x0303, 8500000, 2 ^ 32 - 1), (0x0304, 100, 60000), (0x0305, 0, 7)] ++
   [(0x0401, 1200, 2800), (0x0402, 50, 400), (0x0403, 0, 1), (0x0405, 0, 2 ^ 20 - 1), (0x0406, 1, 32), (0x0501, 1, 221183),
    (0x0502, 0, 442367), (0x0503, 0, 442367), (0x0504, 0, 442367), (0x0505, 0, 442367), (0x0506, 1, 64), (0x0507, 1, 65535)]
   |>.lookup id).getD (0, 2 ^ 128)

/-- Whether a field's value lies in its range (R321, R373, R424, R452, R478). -/
def inRange (id : Nat) (v : List Byte) : Bool :=
  if id = 0x0404 then
    (List.range 16).all (fun x =>
      let imax := (v.getD (2 * x) 0).toNat
      decide (1 ≤ imax) && decide (imax ≤ 64) && decide ((v.getD (2 * x + 1) 0).toNat ≤ 7))
  else decide ((idRange id).1 ≤ leOf v) && decide (leOf v ≤ (idRange id).2)

/-- The records of a payload (R477): (field, value) pairs, or the reason and the first offending ID. `last` is the
ID before. -/
def recordsOf : Nat → Nat → List Byte → (List (Nat × List Byte)) ⊕ (Nat × Nat)
  | 0, _, [] => .inl []
  | 0, _, _ => .inr (3, 0)
  | n + 1, last, bs =>
    let id := leOf (bs.take 2)
    let len := leOf ((bs.drop 2).take 2)
    let pad := ceilDiv len 4 * 4 - len
    match factoryImage.lookup id with
    | none => .inr (3, id)
    | some d =>
      if bs.length < 4 + len + pad ∨ len ≠ d.length ∨ id ≤ last then .inr (3, id)
      else if ((bs.drop (4 + len)).take pad).any (· != 0) then .inr (2, id)
      else
        match recordsOf n id (bs.drop (4 + len + pad)) with
        | .inl r => .inl ((id, (bs.drop 4).take len) :: r)
        | .inr e => .inr e

/-- An image with a user image's fields in place of its own (R478). -/
def mergeImage (fac user : List (Nat × List Byte)) : List (Nat × List Byte) :=
  fac.map (fun r => match user.lookup r.1 with | some v => (r.1, v) | none => r)

/-- The fields of an image's header and records by itself (R477, R478), or the reason of R479 and the first offending ID. Log
entry 86: DEDUCED. -/
def parseImage (origin : Nat) (p : List Byte) : (List (Nat × List Byte)) ⊕ (Nat × Nat) :=
  let n := fun (o k : Nat) => leOf ((p.drop o).take k)
  if p.length < 16 ∨ n 0 2 ≠ 1 ∨ n 2 1 ≠ origin ∨ (origin = 1 ∧ n 3 1 ≠ 0) ∨ ((p.drop 6).take 10).any (· != 0) then .inr (2, 0)
  else
    match recordsOf (n 4 2) 0 (p.drop 16) with
    | .inr e => .inr e
    | .inl rs =>
      match rs.find? (fun r => !inRange r.1 r.2) with
      | some r => .inr (4, r.1)
      | none => .inl rs

/-- The fields of the factory image in flash. -/
def Nv.factory (n : Nv) : List (Nat × List Byte) :=
  match n.used 1 with
  | some (.factory p) => match parseImage 0 p with | .inl rs => rs | .inr _ => factoryImage
  | _ => factoryImage

/-- Page runs of the Cast: copies A and B, the state page and the manifest page (R292). -/
def State.castRuns (s : State) : List (Nat × Nat) :=
  [(s.cfg 0x0502, s.cfg 0x0501), (s.cfg 0x0503, s.cfg 0x0501), (s.cfg 0x0504, 1), (s.cfg 0x0505, 1)]

/-- Whether two runs share a page. -/
def runsMeet (a b : Nat × Nat) : Bool := decide (a.1 < b.1 + b.2) && decide (b.1 < a.1 + a.2)

/-- Whether the effective image keeps R479's rules, else the ID blamed: NET_PMODE, or CAST_NPAGES. -/
def State.imageRules (s : State) : Option Nat :=
  let rs := s.castRuns
  let apart := (List.range 4).all (fun i => (List.range i).all (fun j => !runsMeet (rs.getD i (0, 0)) (rs.getD j (0, 0))))
  let clear := rs.all (fun r => (List.range 4).all (fun d => !runsMeet r (s.reserveBase d, (d + 1) * 110592 - s.reserveBase d)))
  let within := rs.all (fun r => decide (r.1 + r.2 ≤ nPages))
  if (s.cfg 0x0101 == 2) != (s.cfg 0x010E != 0) then some 0x0101
  else if apart && clear && within then none else some 0x0501

/-- A user image's payload: the effective image, or the reason of R479 and the first offending ID. Log entry 86:
DEDUCED. -/
def State.userImage (s : State) (p : List Byte) : (List (Nat × List Byte)) ⊕ (Nat × Nat) :=
  match parseImage 1 p with
  | .inr e => .inr e
  | .inl rs =>
    let m := mergeImage s.nv.factory rs
    match ({ s with img := m } : State).imageRules with
    | some id => .inr (5, id)
    | none => .inl m

/-- The factory image by itself: its fields, or the first offending ID. The image holds every field (R478). -/
def State.factoryFault (s : State) (p : List Byte) : (List (Nat × List Byte)) ⊕ Nat :=
  match parseImage 0 p with
  | .inr e => .inr e.2
  | .inl rs =>
    match factoryImage.find? (fun r => (rs.lookup r.1).isNone) with
    | some r => .inr r.1
    | none =>
      match ({ s with img := rs } : State).imageRules with
      | some id => .inr id
      | none => .inl rs

/-- CFGFULL and CFGDIG of the effective image, and its cap as PWR_STAT shows it (R9, R437, R453). -/
def State.digestImage (s : State) : State :=
  { s with
    pwr := { s.pwr with ceff := s.effCap 0 }
    pln := { s.pln with
      cfgFull := sha384 (canonical s.img)
      cfgDig := BitVec.ofNat 64 (leOf ((sha384 (canonical (s.img.filter (fun r => decide (r.1 ∈ digestedIds))))).take 8)) } }

/-- The user image is rejected with a reason of R479. -/
def State.rejectUser (s : State) (reason id : Nat) : State :=
  ({ s with pln := { s.pln with userAbs := false, userRej := true } } : State).ev 0x8011 reason id

/-- Stage B4: the two images; whether the factory image stands. Log entry 86: DEDUCED. -/
def State.readImages (s : State) (inp : BootInput) : State × Bool :=
  let (t, b) := s.readRegion inp 1
  let p := match b with | some (.factory p) => p | _ => []
  let key := leOf ((p.drop 3).take 1)
  let why := if b.isSome then imageFault t inp.ecdsaOk inp.lmsOk (key / 16) (key % 16) none else some 6
  let t := match why with | some w => t.ev 0x8001 2 w | none => t
  let fac := t.factoryFault p
  let ok := why.isNone && fac.isLeft
  let t := { t with img := match fac with | .inl rs => rs | .inr _ => factoryImage }
  let t := if ok then t else t.ev 0x8010 (regionOff 1) (match fac with | .inl _ => 0 | .inr id => id)
  let ever := (t.nv.at_ 2).fl0.isSome || (t.nv.at_ 2).fl1.isSome
  let (t, usr) := t.readRegion inp 2
  let t := match usr with
    | some (.user p) =>
      match t.userImage p with
      | .inl m => { t with img := m, pln := { t.pln with userAbs := false } }
      | .inr (r, id) => t.rejectUser r id
    | _ => if ever then t.rejectUser 1 0 else t
  (t.digestImage, ok)

/-! ### Boot stages (R468, R485 to R487) -/

/-- The active table from the factory mapping and the retirement list, in its order (R18, R19). -/
def State.buildRemap (s : State) : State :=
  let n := s.perDie
  let fac := (List.range s.nCores).map (fun l => BitVec.ofNat 16 (0x8000 + l / n * 64 + (s.fus.factory.getD (l / n) []).getD (l % n) 0))
  let cur := s.fus.retired.foldl (fun (c : List Half) r => match r with
    | .core l _ new => c.set l (BitVec.ofNat 16 (0x8000 + l / n * 64 + new))
    | .spare _ _ => c) fac
  { s with remap := ⟨0, cur, []⟩ }

/-- The next lower tree of the attestation key (R491, R492): a top fuse is blown, or the budget is
exhausted. Log entry 90: DEDUCED. -/
def State.nextTree (s : State) : State :=
  let n := s.fus.topIdx + 1
  let t := { s with fus := { s.fus with topIdx := n }, nv := { s.nv with attNext := 0, attLimit := 0 } }
  if n < 1024 then t.ev 0x8042 n 0 else t.ev 0x8041 0 0

/-- Signatures left in the attestation budget (R491). Log entry 90: DEDUCED. -/
def State.lmsLeft (s : State) : Nat := (1024 - s.fus.topIdx) * 32768 - s.nv.attNext

/-- 0x8040 once 90% of the budget is used; `before` signatures were left (R492). -/
def State.budget (s : State) (before : Nat) : State :=
  if s.lmsLeft ≤ 3355443 ∧ 3355443 < before then s.ev 0x8040 s.lmsLeft 0 else s

/-- The stepping codes of two dies. Log entry 89: DEDUCED. -/
def State.stepCodes (s : State) (d : Nat) : Nat :=
  let c := fun (i : Nat) => let x := s.fus.cdStep.getD i (0, 0); x.1.toNat * 256 + x.2.toNat
  c d + 65536 * c (d + 1)

/-- Stage 2: the input stage's record becomes PWR_INSTAT, with the events that report it (R447, R524). Log entry
83: DEDUCED. Log entry 92: DEDUCED. -/
def State.bootRecord (s : State) : State :=
  let r := s.brd.record
  let t := { s with brd := { s.brd with instat := r, pump := true } }
  let bits := (if r.getLsbD 1 then 1 else 0) + (if r.getLsbD 2 || r.getLsbD 3 then 2 else 0)
  let t := if bits = 0 then t
    else ({ t with pwr := { t.pwr with trip := BitVec.ofNat 6 bits } }.irq 6).ev 0x7021 bits t.brd.tripReading
  if r &&& 0xF0 = 0 then t else t.ev 0x7040 r.toNat 0

/-- The payload of a firmware region's copy. -/
def fwOf : Option Body → Option FwPayload
  | some (.firmware f) => some f
  | _ => none

/-- Stage B2: the boot control is read, or recreated with both slots PENDING (R475), and the boot counted. -/
def State.bootControl (s : State) (inp : BootInput) : State :=
  let (t, b) := s.readRegion inp 0
  let (sl, n) := match b with
    | some (.control sl n) => (sl, n)
    | _ => ([⟨.pending, 0, 0⟩, ⟨.pending, 0, 0⟩], 0)
  let t := { t with nv := { t.nv with slots := sl, bootCnt := n + 1 } }
  t.bootWrite inp 0 t.control

/-- The firmware regions are read: a slot takes the VERSION of its payload, and one without a valid copy that is not
EMPTY is BAD (R475, R483). -/
def State.readSlots (s : State) (inp : BootInput) : State × List (Option FwPayload) :=
  let (t, a) := s.readRegion inp 6
  let (t, b) := t.readRegion inp 7
  let fws := [fwOf a, fwOf b]
  ([0, 1].foldl (fun (u : State) n =>
    match fws.getD n none with
    | some f => u.setSlot n (fun (x : FwSlot) => { x with version := f.version })
    | none => if (u.fwSlot n).st = .empty ∨ (u.fwSlot n).st = .bad then u else (u.badSlot inp n).ev 0x8001 n 6) t, fws)

/-- Stages B1 to B3: boot control and the firmware slot; none puts the device in recovery mode (R484). Log entry
29: DEDUCED. Log entry 84: DEDUCED. -/
def State.bootFirmware (s : State) (inp : BootInput) : State × Bool :=
  let (t, fws) := (s.bootControl inp).readSlots inp
  match t.chooseSlot inp fws with
  | (u, none) => ((({ u with pln := { u.pln with recov := true } }).ev 0x8002 0 0).setDev .failed, false)
  | (u, some (n, trial)) =>
    let f := fws.getD n none
    ({ u with pln := { u.pln with
        slot := n, trial := trial, fwVer := (f.map (fun x => x.version)).getD 0, fwSvn := (f.map (fun x => x.svn)).getD 0
        fwDig := (f.map (fun x => sha384 (FwPayload.bytes x))).getD [] } }, true)

/-- The guilt record with its trims and clock step is read, or recreated empty (R475). -/
def State.bootGuilt (s : State) (inp : BootInput) : State :=
  let put := fun (t : State) (gs : List Guilt) (trims : List Nat) (mhz : Nat) =>
    { t with aud := { t.aud with guilt := gs }, pwr := { t.pwr with trims := trims }, clk := { t.clk with mhz := mhz } }
  match s.readRegion inp 3 with
  | (t, some (.guilt gs trims mhz)) => put t gs trims mhz
  | (t, _) =>
    let none_ := List.replicate 192 Guilt.clean
    let zero := List.replicate 192 0
    (put t none_ zero 850).bootWrite inp 3 (.guilt none_ zero 850)

/-- The attestation key state is read: the next index is the recorded limit, and where that is the tree's end, or no copy is
valid, the next lower tree begins (R475, R492). -/
def State.bootAttest (s : State) (inp : BootInput) : State :=
  let (t, b) := s.readRegion inp 4
  let left := t.lmsLeft
  let next := fun (t : State) => if t.fus.topIdx < 1024 then t.nextTree.bootWrite inp 4 (.attest 0) else t
  let t := match b with
    | some (.attest n) =>
      let u := { t with nv := { t.nv with attNext := n, attLimit := n } }
      if 32768 ≤ n then next u else u
    | _ => next t
  t.budget left

/-- Stages B5 and B6: guilt record, attestation key state, certificate store, identity key (R490), stepping check,
remap table, boot lock; whether the compute part may be powered. Log entry 88: DESIGN CHOICE. -/
def State.bootRecords (s : State) (inp : BootInput) : State × Bool :=
  let (t, b) := ((s.bootGuilt inp).bootAttest inp).readRegion inp 5
  let store := match b with | some (.certs serial grade) => some (serial, grade) | _ => none
  let t := { t with pln := { t.pln with idKey := some (identityKey t.fus.secret), store := store } }
  let t := if b.isSome then t else let (b, u) := t.bit; u.ev 0x8014 (regionOff 5) (if b then 1 else 0)
  let same := t.fus.cdStep.all (fun c => c == t.fus.cdStep.headD (0, 0))
  let t := if same then t else t.ev 0x9030 (t.stepCodes 0) (t.stepCodes 2)
  (({ t with pln := { t.pln with locked := true } } : State).buildRemap, same)

/-- Stages 4 to 6: compute power-on. Log entry 87: DEDUCED. Log entry 95: DEDUCED. -/
def State.powerCompute (s : State) (inp : ResetInput) : State :=
  let c := s.clearCompute
  let t := { c with
    hbm := [], badLines := []
    pwr := { c.pwr with off := false, credit := 64 * s.dMax }
    clk := { s.clk with stopped := true, aligned := false, relock := [], wake := [] } }
  let t := t.moveRail.align inp.alignFails
  if t.dev = .failed then t else t.knownAnswer inp

/-- The device reports READY; firmware on trial marks its slot GOOD (R483). -/
def State.ready (s : State) : State :=
  let t := if s.pln.trial && (s.fwSlot s.pln.slot).st != .good then
      (s.setSlot s.pln.slot (fun (x : FwSlot) => { x with st := .good })).saveControl
    else s
  t.setDev .up

/-- Stages 2 to 7. Without REF25 the IOD stays in stage 2 (R536). Log entry 13: DESIGN CHOICE. Log entry 83:
DEDUCED. Log entry 87: DEDUCED. Log entry 96: DEDUCED. -/
def State.boot (s : State) (inp : BootInput) : State :=
  let t := s.fresh .booting
  if s.brd.ref25 = false then t
  else
  match t.bootRecord.bootFirmware inp with
  | (u, false) => { u with pwr := { u.pwr with off := true } }
  | (u, true) =>
    let (v, fac) := u.readImages inp
    let (w, same) := v.bootRecords inp
    if fac && same then
      let x := w.powerCompute inp.reset
      if x.dev = .failed then x else x.ready
    else ({ w with pwr := { w.pwr with off := true } }).setDev .failed

/-- POWER_ON: the stage closes, and the stages of R468 run. -/
def execPowerOn (inp : BootInput) (s : State) : Host.Outcome State Fault Refusal :=
  if (s.brd.stage = .charging ∨ s.brd.stage = .closed) ∧ (s.dev = .off ∨ s.dev = .booting) then
    .next (({ s with brd := { s.brd with stage := .closed } } : State).boot inp)
  else .next s

/-- MODULE_RESTART: PLN_RESTART (R489). -/
def execModuleRestart (value : Word) (inp : BootInput) (s : State) : Host.Outcome State Fault Refusal :=
  if value.getLsbD 31 = false ∨ s.dev = .off ∨ s.dev = .booting then .next s
  else if (s.jobSt = .empty ∨ s.jobSt = .faulted ∨ s.jobSt = .done) ∧ s.rcv.parked = none ∧ s.pln.flash = [] then .next (s.boot inp)
  else .next (s.reject 0)

/-- PWR_TRIP (R446, R453): W1C bits, and CLR, which powers the compute part on again. Log entry 95: DEDUCED. -/
def execPwrTripClr (value : Word) (inp : ResetInput) (s : State) : Host.Outcome State Fault Refusal :=
  if s.dev = .off ∨ s.dev = .booting ∨ s.pln.recov = true then .next s
  else
    let t := { s with
      pwr := { s.pwr with trip := s.pwr.trip &&& ~~~(value.truncate 6) }
      brd := if value.getLsbD 4 && s.pwr.trip.getLsbD 4 then { s.brd with pump := true } else s.brd }
    if value.getLsbD 31 = false then .next t
    else
      let cool := t.pwr.tdie.all (fun x => decide (x ≤ 1440)) && t.pwr.thbm.all (fun x => decide (x ≤ 1440))
      let dry := t.brd.leak != 1 && t.brd.leak != 3
      let same := t.fus.cdStep.all (fun c => c == t.fus.cdStep.headD (0, 0))
      if t.pwr.off = true ∧ t.pln.locked = true ∧ cool = true ∧ dry = true ∧ t.pwr.badSensor = false ∧ same = true then
        let u := (t.setDev .booting).powerCompute inp
        .next (if u.dev = .failed then u else u.ready)
      else .next (t.reject 0)

/-! ### Flash updates (R476, R488) -/

/-- An update waits or is being written. -/
def State.updating (s : State) : Bool := s.pln.flash.any (fun u => match u with | .own _ _ => false | _ => true)

/-- PLN_UPDSTAT reaches done or failed. -/
def State.endUpd (s : State) (st : Nat) : State := ({ s with pln := { s.pln with updSt := st } } : State).irq 5

/-- An update is rejected: 0x8015 with its reason. -/
def State.rejectUpd (s : State) (op reason : Nat) : State :=
  let t := ({ s with pln := { s.pln with updReason := reason } } : State).ev 0x8015 op reason
  if reason = 1 then t else t.endUpd 3

/-- An update operation: its size limit, how its source was read, and what its checks find. Log entry 93: DEDUCED. -/
def State.startUpd (s : State) (op max : Nat) (read : HostRead) (ok : Bool) (go : State → State) : State :=
  if s.dev = .off ∨ s.dev = .booting ∨ (s.pln.recov = true ∧ op ≠ 1) then s
  else if s.updating then s.rejectUpd op 1
  else if max < s.pln.updLen.toNat then s.rejectUpd op 3
  else if read ≠ .ok then s.rejectUpd op 4
  else if ok then go s
  else s.rejectUpd op 2

/-- A region write is to be made, behind those that wait (R495). -/
def State.beginUpd (s : State) (u : Upd) : State := { s with pln := { s.pln with flash := s.pln.flash ++ [u], updSt := 1 } }

/-- The slot that does not run. In recovery mode neither slot runs, and which is written is open. -/
def State.idleSlot (s : State) : Nat × State :=
  let (b, t) := if s.pln.recov then s.bit else (decide (s.pln.slot = 1), s)
  (if b then 0 else 1, t)

/-- FIRMWARE_SLOT_WRITE: operation 0x1; an image that fails verification raises 0x8001 besides (R482, R497). -/
def execFirmwareSlotWrite (fw : FwPayload) (read : HostRead) (s : State) : Host.Outcome State Fault Refusal :=
  .next (s.startUpd 1 0x2000000 read true (fun t =>
    let (n, u) := t.idleSlot
    match u.fwFault fw with
    | none => u.beginUpd (.slot n fw)
    | some w => (u.ev 0x8001 n w).rejectUpd 1 2))

/-- USER_IMAGE_WRITE: operation 0x2. -/
def execUserImageWrite (payload : List Byte) (read : HostRead) (s : State) : Host.Outcome State Fault Refusal :=
  .next (s.startUpd 2 0x40000 read (s.userImage payload).isLeft (fun t => t.beginUpd (.user payload)))

/-- USER_IMAGE_ERASE: operation 0x3. -/
def execUserImageErase (s : State) : Host.Outcome State Fault Refusal :=
  .next (s.startUpd 3 (2 ^ 32) .ok true (fun t => t.beginUpd .erase))

/-- SVN_FLOOR_RAISE: operation 0x4. -/
def execSvnFloorRaise (s : State) : Host.Outcome State Fault Refusal :=
  .next (s.startUpd 4 (2 ^ 32) .ok ((s.fwSlot s.pln.slot).st == .good && decide (s.fus.svnFloor < s.pln.fwSvn)) (fun t =>
    ({ t with fus := { t.fus with svnFloor := t.pln.fwSvn } } : State).endUpd 2))

/-- The user image erased on FL1 and then on FL0 (R476, R488). -/
def State.eraseUser (s : State) (fl1Ok fl0Ok : Bool) : State :=
  let c := s.nv.at_ 2
  let torn := some (copyOf 2 c.nextSeq (.user [])).torn
  if !fl1Ok then ({ s with nv := s.nv.setCopies 2 ⟨c.fl0, torn⟩ } : State).ev 0x8014 (regionOff 2) 1
  else
    let t := { s with nv := s.nv.setCopies 2 ⟨if fl0Ok then none else torn, none⟩ }
    if fl0Ok then t else t.ev 0x8014 (regionOff 2) 0

/-- FLASH_UPDATE_COMPLETE: the first of the waiting writes ends, FL1's copy and then FL0's, each read back as told; a
firmware slot written becomes PENDING with TRIES 0 (R476, R488, R495). -/
def execFlashUpdateComplete (fl1Ok fl0Ok : Bool) (s : State) : Host.Outcome State Fault Refusal :=
  match s.pln.flash with
  | [] => .next s
  | u :: r =>
    let t := { s with pln := { s.pln with flash := r } }
    let st := if fl1Ok then 2 else 3
    .next (match u with
      | .own i b => t.putCopies i b fl1Ok fl0Ok
      | .user p => (t.putCopies 2 (.user p) fl1Ok fl0Ok).endUpd st
      | .erase => (t.eraseUser fl1Ok fl0Ok).endUpd st
      | .slot n fw =>
        let v := t.putCopies (6 + n) (.firmware fw) fl1Ok fl0Ok
        (if fl1Ok then (v.setSlot n (fun _ => ⟨.pending, 0, fw.version⟩)).saveControl else v).endUpd st)

/-- The certificate chain that a quote carries: empty where the store is invalid (R475, R490). -/
def State.chain (s : State) : List Cert :=
  match s.pln.store with
  | some (serial, grade) => certsOf serial grade s.fus.secret
  | none => []

/-! ### Quotes (R491 to R495) -/

/-- Plinth's own write of the recorded limit (R476, R492): whether FL1's copy read back. Log entry 90: DEDUCED. -/
def State.writeLimit (s : State) (limit : Nat) : State × Bool :=
  let (n, t) := s.nat
  (t.putCopies 4 (.attest limit) (n % 3 != 1) (n % 3 != 2), n % 3 != 1)

/-- The limit of the attestation indices raised in flash before index `i` is used, or not where its write fails (R492). -/
def State.raiseLimit (s : State) (i : Nat) : State × Bool :=
  let (t, ok) := s.writeLimit (i + 256)
  (if ok then { t with nv := { t.nv with attLimit := i + 256 } } else t, ok)

/-- One attestation index is taken (R492): the index, none when the budget is exhausted. Log entry 90: DEDUCED. -/
def State.takeIndex (s : State) : State × Option (Nat × Nat) :=
  if 1024 ≤ s.fus.topIdx then (s, none)
  else
    let i := s.nv.attNext
    let (t, ok) := if s.nv.attLimit ≤ i then s.raiseLimit i else (s, true)
    if !ok then (t, none)
    else
      let t := ({ t with nv := { t.nv with attNext := i + 1 } } : State).budget s.lmsLeft
      let t := if i + 1 < 32768 then t
        else (t.nextTree.writeLimit 0).1
      (t, some (s.fus.topIdx, i))

/-- RECDIG of the journal's last visible record. Log entry 94: DEDUCED. -/
def State.lastRec (s : State) : Nat :=
  match s.job.jrn.waiting with
  | r :: _ => leOf ((r.drop 48).take 8)
  | [] => s.job.jrn.prevDig.toNat

/-- Bytes 0 to 223 of a quote (R493). Log entry 94: DEDUCED. -/
def State.quoteHead (s : State) (nonce : List Byte) (idx : Option (Nat × Nat)) : List Byte :=
  let p := s.pln
  let c := s.fus.cdStep.headD (0, 0)
  let job := s.jobSt != .empty
  let fl := (if idx.isSome then 1 else 0) + (if p.trial then 2 else 0) + (if p.userRej || p.userAbs then 4 else 0)
  let ret := (List.range 4).foldl (fun n d => n + 16 ^ d * min 4 (s.retiredOn d).length) 0
  leBytes 2 1 ++ leBytes 1 fl ++ leBytes 1 0 ++ leBytes 4 (if idx.isSome then 5556 else 320) ++ leBytes 8 s.fus.serial.toNat
    ++ [s.fus.fitting, c.2, c.1, s.fus.grade] ++ leBytes 4 p.fwVer ++ leBytes 4 (s.fus.svnFloor % 65536 * 65536 + p.fwSvn % 65536)
    ++ leBytes 4 s.nv.bootCnt ++ (nonce ++ List.replicate 32 0).take 32 ++ (p.fwDig ++ List.replicate 48 0).take 48
    ++ (p.cfgFull ++ List.replicate 48 0).take 48 ++ leBytes 8 p.cfgDig.toNat ++ leBytes 8 s.remapDigest
    ++ leBytes 1 (if s.fus.grade = 0x02 then 1 else 0) ++ leBytes 1 (if job then s.job.desc.cls else 0xFF) ++ leBytes 2 ret
    ++ leBytes 4 s.clk.mhz ++ leBytes 8 (if job then s.job.desc.jobid.toNat else 0) ++ leBytes 8 s.lastRec
    ++ leBytes 8 s.drn.beat ++ leBytes 8 s.ptp.wall
    ++ leBytes 4 (match idx with | some (t, l) => t * 2 ^ 22 + l | none => 0xFFFFFFFF) ++ leBytes 4 0

/-- A quote: its head, the identity key's signature of it, and the attestation key's where an index is left (R490, R491,
R493). Log entry 133: DESIGN CHOICE. -/
def State.quote (s : State) (nonce : List Byte) (idx : Option (Nat × Nat)) (rand lrand : Nat) : List Byte :=
  let h := s.quoteHead nonce idx
  let e := ecdsaSign (s.pln.idKey.getD ([], [])).1 h rand
  let l := match idx with
    | some i => hssSign s.fus.secret i h lrand
    | none => []
  h ++ e ++ l

/-- QUOTE_REQUEST: the quote is formed, signed and written (R493). -/
def execQuoteRequest (mgmt : Bool) (nonce : List Byte) (rand lrand : Nat) (s : State) : Host.Outcome State Fault Refusal :=
  if s.dev = .off ∨ s.dev = .booting ∨ s.pln.recov = true then .next s
  else if s.pln.qSt = 1 then .next (s.reject 0)
  else
    let (t, idx) := s.takeIndex
    let q := t.quote (if mgmt then s.mgmt.box.read 0 32 else nonce) idx rand lrand
    let u := if mgmt then { t with mgmt := { t.mgmt with box := t.mgmt.box.setBytes 64 q } }
      else t.store ⟨.host, t.pln.qHi.toNat * 2 ^ 32 + t.pln.qLo.toNat + 64, q⟩
    .next (({ u with pln := { u.pln with qSt := 2, qHss := idx.isSome, qLen := q.length } } : State).irq 5)

end Sys2Proof.Machine
end

