-- ==== Sys2Proof/Machine/Board.lean ====
section
/-! DEFINITION. The board: input stage (R522 to R525), auxiliary outputs and pins (R520, R527, R528), sensors (R529,
R530), 1PPS (R535), REF25 (R536); and what the memory controllers do on their own (R152, R153, R307). -/
namespace Sys2Proof.Machine

/-! ### Input stage -/

/-- The stage's record takes a bit. Log entry 92: DEDUCED. -/
def Board.note (b : Board) (bit : Nat) : Board := { b with record := b.record ||| (1#8 <<< bit) }

/-- INPUT_VALID: the input has lain in range for 1 ms, and charging begins. -/
def execInputValid (s : State) : Host.Outcome State Fault Refusal :=
  match s.brd.stage with
  | .off | .reversed => .next { s with dev := .off, brd := { s.brd with stage := .charging } }
  | _ => .next s

/-- INRUSH_TIMEOUT: charging has not ended after 100 ms. -/
def execInrushTimeout (s : State) : Host.Outcome State Fault Refusal :=
  if s.brd.stage = .charging then .next { s with brd := { s.brd.note 7 with stage := .latched } } else .next s

/-- INPUT_STAGE_OPEN: a forward short or a reverse current (R524). -/
def execInputStageOpen (reverse : Bool) (s : State) : Host.Outcome State Fault Refusal :=
  if s.brd.stage = .closed ∨ s.brd.stage = .charging then
    let t := s.powerLost
    .next { t with brd := { t.brd.note (if reverse then 6 else 5) with stage := .latched } }
  else .next s

/-- INPUT_STAGE_REARM: the input has stayed below 20 V for 1 s. -/
def execInputStageRearm (s : State) : Host.Outcome State Fault Refusal :=
  if s.brd.stage = .latched then .next { s with brd := { s.brd with stage := .off } } else .next s

/-- REVERSE_POLARITY: the stage never closes and records REVPOL (R525). -/
def execReversePolarity (s : State) : Host.Outcome State Fault Refusal :=
  match s.brd.stage with
  | .off | .reversed => .next { s with brd := { s.brd.note 4 with stage := .reversed } }
  | .latched => .next { s with brd := s.brd.note 4 }
  | _ => .next s

/-- REF25_LOSS (R536). Log entry 96: DEDUCED. -/
def execRef25Loss (s : State) : Host.Outcome State Fault Refusal := .next { s with brd := { s.brd with ref25 := false } }

/-! ### Pins (R520, R528, R532) -/

/-- What an LED does. -/
inductive Led where
  | dark | lit | blink
  deriving DecidableEq, Repr

/-- FAULT#, asserted: FAILED, a trip in force, a nonzero input-stage record, or REF25 lost. A reversed input leaves it
unpowered (R525). Log entry 109: DESIGN CHOICE. -/
def State.faultPin (s : State) : Bool :=
  s.brd.stage != .reversed && (s.dev == .failed || s.pwr.trip != 0 || s.brd.record != 0 || !s.brd.ref25)

/-- LED_STAT; the spec does not say what it does in FAILED. -/
def State.ledStat (s : State) : Option Led :=
  match s.devst with
  | 2 | 3 => some .lit
  | 1 | 5 => some .blink
  | 0 | 4 => some .dark
  | _ => none

/-- LED_FLT. -/
def State.ledFlt (s : State) : Led :=
  if s.faultPin then .lit
  else if s.brd.limit.any id || s.brd.tinSt != 0 || s.brd.toutSt != 0 || s.brd.leak == 2 || s.brd.leak == 3 then .blink
  else .dark

/-- SMB_ALERT#, and the I3C in-band interrupt: an unconsumed record of an enabled class. -/
def State.alertPin (s : State) : Bool :=
  (s.evt.log.filter (fun r => decide (s.evt.tail.toNat ≤ r.1))).any (fun r => s.evt.irqen.getLsbD (r.2.code / 4096 % 16))

/-- PUMP_EN pulled low: asserted, and not off in its limit. -/
def State.pumpPin (s : State) : Bool := s.brd.pump && !s.brd.limit.getD 0 false

/-! ### Auxiliary outputs (R527) -/

/-- An output's number in PWR_AUX.LIMIT and in 0x7041. -/
def auxIndex : AuxOut → Nat
  | .pump => 0 | .ledStat => 1 | .ledFlt => 2 | .fault => 3 | .v3p3 => 4

/-- Whether the IOD is powered and out of reset. -/
def State.iodUp (s : State) : Bool := s.dev != .off

/-- AUX_OUTPUT_LIMIT: 1 ms in limit. -/
def execAuxOutputLimit (out : AuxOut) (ma : Nat) (s : State) : Host.Outcome State Fault Refusal :=
  let i := auxIndex out
  if !s.iodUp || s.brd.limit.getD i false then .next s
  else .next (({ s with brd := { s.brd with limit := s.brd.limit.set i true } } : State).ev 0x7041 i ma)

/-- AUX_OUTPUT_RETRY: 10 ms, limited again or not. -/
def execAuxOutputRetry (out : AuxOut) (limited : Bool) (s : State) : Host.Outcome State Fault Refusal :=
  let i := auxIndex out
  if !s.iodUp || limited || !s.brd.limit.getD i false then .next s
  else .next (({ s with brd := { s.brd with limit := s.brd.limit.set i false } } : State).ev 0x7042 i 0)

/-! ### Sensor inputs (R529, R530) -/

/-- SENSOR_INPUT_FAULT: a thermistor open or shorted for 100 ms; a substitute reading stands in for it. -/
def execSensorInputFault (inp : ThermIn) (short : Bool) (s : State) : Host.Outcome State Fault Refusal :=
  let c := if short then 3 else 2
  if !s.iodUp then .next s
  else
    match inp with
    | .tin =>
      if s.brd.tinSt = c then .next s
      else .next (({ s with brd := { s.brd with tinSt := c }, pwr := { s.pwr with tin := 720 } } : State).ev 0x7043 0 (c - 1))
    | .tout =>
      if s.brd.toutSt = c then .next s
      else .next (({ s with brd := { s.brd with toutSt := c }, pwr := { s.pwr with tout := 0x7FFF } } : State).ev 0x7043 1 (c - 1))

/-- SENSOR_INPUT_RECOVER: in range for 1 s. -/
def execSensorInputRecover (inp : ThermIn) (s : State) : Host.Outcome State Fault Refusal :=
  match inp with
  | .tin => .next (if s.iodUp && s.brd.tinSt != 0 then ({ s with brd := { s.brd with tinSt := 0 } } : State).ev 0x7044 0 0 else s)
  | .tout => .next (if s.iodUp && s.brd.toutSt != 0 then ({ s with brd := { s.brd with toutSt := 0 } } : State).ev 0x7044 1 0 else s)

/-- The LEAK code of a loop resistance in Ω: 0 dry, 1 wet, 2 open, 3 short; between the bands the state before
holds. Log entry 97: DEDUCED. -/
def leakState (old ohms : Nat) : Nat :=
  if ohms < 100 then 3
  else if ohms ≤ 5000 then 1
  else if ohms < 8000 then old
  else if ohms ≤ 12000 then 0
  else if ohms ≤ 50000 then old
  else 2

/-- LEAK_LOOP_MEASURE: the reading of every 10 ms; the third wet or short one in a row trips. Log entry 97: DEDUCED. -/
def execLeakLoopMeasure (ohms : Nat) (s : State) : Host.Outcome State Fault Refusal :=
  if !s.iodUp then .next s
  else
    let old := s.brd.leak
    let st := leakState old ohms
    let wet := st = 1 ∨ st = 3
    let run := if wet then s.brd.wetRun + 1 else 0
    let t := { s with brd := { s.brd with leak := st, leakR := min 0xFFFF (ohms / 10), wetRun := run } }
    let bad := fun (c : Nat) => c == 2 || c == 3
    let t := if bad st && st != old then t.ev 0x7043 2 (st - 1) else if bad old && !bad st then t.ev 0x7044 2 0 else t
    .next (if 3 ≤ run then t.trip 4 ohms else t)

/-! ### 1PPS (R535) -/

/-- The 1PPS input becomes invalid with a reason. Log entry 98: DEDUCED. -/
def State.ppsInvalid (s : State) (reason : Nat) : State :=
  let t := { s with ptp := { s.ptp with ppsGood := 0 } }
  if s.ptp.ppsOk then
    ({ t with ptp := { t.ptp with ppsOk := false }, brd := { t.brd with ppsReason := reason } } : State).ev 0x6034 reason 0
  else t

/-- PPS_EDGE: a valid edge aligns WALL's seconds by rate (R347, R348), the falling one where the pair is swapped;
`ppsGood` counts consecutive good periods, from 0 with a normal high time and from 4 with a swapped one; the third
of a kind makes the input valid. Log entry 60: DESIGN CHOICE. Log entry 98: DEDUCED. -/
def execPpsEdge (e : PpsEdge) (s : State) : Host.Outcome State Fault Refusal :=
  if !s.iodUp then .next s
  else
    let t := { s with brd := { s.brd with ppsWidth := min 0xFFFFFF (e.high / 1000) } }
    let normal := decide (1000 ≤ e.high ∧ e.high ≤ 400000000)
    let swapped := decide (600000000 ≤ e.high ∧ e.high ≤ 999999000)
    if e.period + 100000 < 1000000000 ∨ 1000100000 < e.period then .next (t.ppsInvalid 2)
    else if 400000000 < e.high ∧ e.high < 600000000 then .next (t.ppsInvalid 3)
    else
      let g := t.ptp.ppsGood
      let n := if normal then (if g < 4 then min 3 (g + 1) else 1) else if swapped then (if 4 ≤ g then min 7 (g + 1) else 5) else 0
      let second : Int := (t.ptp.wall : Int) - (if n = 7 then (e.period : Int) - e.high else 0)
      let off := second % 1000000000
      let valid := n = 3 ∨ n = 7
      let adj := if valid then (if off < 500000000 then -off else 1000000000 - off) else t.ptp.adj
      let u := { t with ptp := { t.ptp with ppsGood := n, adj := adj } }
      if (n = 3 ∧ (t.ptp.ppsOk = false ∨ t.ptp.ppsSwap = true)) ∨ (n = 7 ∧ (t.ptp.ppsOk = false ∨ t.ptp.ppsSwap = false)) then
        .next (({ u with ptp := { u.ptp with ppsOk := true, ppsSwap := decide (n = 7) } } : State).ev 0x6033 (if n = 7 then 1 else 0) 0)
      else .next u

/-- PPS_TIMEOUT: 1.5 s without an edge. -/
def execPpsTimeout (s : State) : Host.Outcome State Fault Refusal := .next (if s.iodUp then s.ppsInvalid 1 else s)

/-! ### Memory controllers -/

/-- HBM_REFRESH: it changes arrival times only (R152). -/
def execHbmRefresh (_stack _bank : Nat) (s : State) : Host.Outcome State Fault Refusal := .next s

/-- HBM_PATROL_SCRUB: what the patrol scrub found in a line (R153, R176, R507); it writes nothing to a line that it cannot
correct, whose next reader meets R151 and takes what the line then reads as: free bytes. Log entry 67: DEDUCED. Log
entry 146: DEDUCED. -/
def execHbmPatrolScrub (addr : Nat) (err : Option Bool) (s : State) : Host.Outcome State Fault Refusal :=
  if s.dev = .off ∨ s.dev = .booting ∨ s.dev = .recovering ∨ s.pwr.off = true ∨ hbmEnd ≤ addr then .next s
  else
    match err with
    | none => .next s
    | some false => .next (s.countLine 0xFF noIdx.toNat addr false)
    | some true =>
      let l := addr / 64 * 64
      let t := if l ∈ s.badLines then s else
        { s with hbm := s.hbm.setBytes l (s.bytes 64).1, free := s.free + 64, badLines := insertNat l s.badLines }
      .next (({ t with pci := t.pci.countLine addr true } : State).ev 0x3012 addr (pageOf addr))

/-- The entry the scrubber takes next: COMMITTED entries ascending from the last, wrapping (R307). -/
def State.scrubNext (s : State) : Option Nat :=
  let es := (List.range s.nShard).filter (fun e => s.hnum (s.ment e + 24) 1 == 3)
  (es.find? (fun e => decide (s.cast.scrub ≤ e))).or es.head?

/-- The PD61 of a shard's in-force copy. Log entry 66: DEDUCED. -/
def State.shardDigest (s : State) (e : Nat) : Nat :=
  let off := s.hnum (s.ment e) 8
  let len := s.hnum (s.ment e + 8) 8
  let halves := (List.range (len / pageSize)).flatMap (fun i =>
    let p := off / pageSize + i
    (s.pageCells (s.castPage (s.castX p) p)).map (fun c => ((i * pageSize + c.1) / 4, c.2.toNat * 256 ^ (c.1 % 4))))
  pdSparse s.key 0 0 (len / 4) (halves.foldl (fun l h => addAt h.1 h.2 l) [])

/-- SHARD_SCRUB_ENTRY: the scrubber has digested its next entry; the bytes it read may not be what HBM holds. Log
entry 66: DEDUCED. -/
def execShardScrubEntry (entry : Nat) (misread : Option DWord) (s : State) : Host.Outcome State Fault Refusal :=
  if s.live = false ∨ s.dev ≠ .up ∨ s.badHeader = true ∨ s.scrubNext ≠ some entry then .next s
  else
    let d := match misread with | some m => m.toNat | none => s.shardDigest entry
    let t := { s with cast := { s.cast with scrub := entry + 1 } }
    if d = s.hnum (s.ment entry + 16) 8 then .next t
    else
      let p := s.hnum (s.ment entry) 8 / pageSize
      let n := s.hnum (s.man + 24) 4
      .next ((t.hput (s.man + 24) 4 (satAdd 32 n 1)).ev 0x4016 entry (s.castPage (s.castX p) p))

end Sys2Proof.Machine
end

