-- ==== Sys2Proof/Machine/Pcie.lean ====
section
/-! DEFINITION. The PCIe endpoint: link, resets (R501, R502), MSI-X (R508, R509) and BAR2 (R155, R507). -/
namespace Sys2Proof.Machine

/-! ### Link and resets -/

/-- What identifies the function (R498). -/
structure PciIdent where
  vendor : Nat
  device : Nat
  subsystem : Nat
  revision : Nat
  classCode : Nat
  deriving DecidableEq, Repr

/-- The identity in configuration space (R498): its subsystem by the grade, its revision by the stepping of the compute
dies. -/
def State.identity (s : State) : PciIdent :=
  let st := s.fus.cdStep.headD (0, 0)
  ⟨0x1F4A, 0x0880, if s.fus.grade = 0x02 then 0x0160 else 0x0192, 16 * (st.1.toNat - 65) + (st.2.toNat - 48), 0x120000⟩

/-- The host sets configuration space; MSI-X enabled sends what is pending in vectors not masked. Log entry 131:
DESIGN CHOICE. -/
def State.configure (s : State) (m : LinkMode) : State :=
  let t := { s with pci := { s.pci with cfg := { s.pci.cfg with
      msix := m.msix, payload := m.payload, readReq := m.readReq, noTimeout := m.noTimeout, relaxed := m.relaxed, d3hot := false } } }
  if m.msix then
    { t with
      msix := t.msix.map (fun (v : Vector) => { v with pend := v.pend && v.mask })
      sent := t.sent ++ ((List.range t.msix.length).filter (fun i => match t.msix[i]? with
        | some v => v.pend && !v.mask
        | none => false)).map Tlp.msix }
  else t

/-- PCIE_LINK_TRAINED (R501, R507), with what the host sets in configuration space behind it (R498, R500). Log entry 131:
DESIGN CHOICE. -/
def execPcieLinkTrained (speed : BitVec 4) (width : BitVec 5) (mode : LinkMode) (s : State) : Host.Outcome State Fault Refusal :=
  if s.dev = .off ∨ speed = 0 ∨ 6 < speed.toNat ∨ width.toNat ∉ [1, 2, 4, 8, 16] then .next s
  else
    let degr := speed != 6 || width != 16
    let t := { s with pci := { s.pci with up := true, speed := speed, width := width, flit := mode.flit, degr := degr } }
    .next ((if degr then t.ev 0x6040 speed.toNat width.toNat else t).configure mode)

/-- What a PCIe reset sets to its Reset value: configuration space with the BAR2 size, the MSI-X table and PBA,
PCI_B2BASE, the job ring and the completion ring registers. -/
def State.resetPcie (s : State) (down : Bool) : State :=
  { s with
    msix := State.reset.msix
    pci := { s.pci with b2lo := 0, b2hi := 0, b2log2 := 36, up := s.pci.up && !down, cfg := PciCfg.reset, readErr := [] }
    ring := { s.ring with baseLo := 0, baseHi := 0, log2 := 0, cons := 0, prod := 0, waiting := [], crCons := 0 }
    job := { s.job with crProd := 0 } }

/-- The effect of a PCIe reset with its cause in 0x6041 (R502). Log entry 99: DEDUCED. -/
def State.pcieReset (s : State) (cause : Nat) (down : Bool) : State :=
  let t := s.ev 0x6041 cause s.jobSt.code
  let t := if t.mqt.epoch.isSome then t.epochFail 2 else t
  let t := match t.jobSt with
    | .running | .held | .paused => t.abortJob
    | .loading | .armed => t.endLoad
    | _ => t
  let t := match t.rcv.parked with
    | some p => t.discardParked p
    | none => t
  let t := if t.jobSt = .empty then t else t.releaseJob
  let t := { t with rcv := { t.rcv with abortPend := false, marked := false } }
  (t.resetPcie down).trigger 0

/-- PCIE_RESET: FLR, hot reset, link down, PERST#. -/
def execPcieReset (kind : PcieResetKind) (s : State) : Host.Outcome State Fault Refusal :=
  if s.dev = .off then .next s
  else
    match kind with
    | .flr => .next (s.pcieReset 1 false)
    | .hot => .next (s.pcieReset 2 true)
    | .linkDown => .next (s.pcieReset 3 true)
    | .perst => .next (s.pcieReset 4 true)

/-- D3HOT_ENTRY: the function enters D3hot, and where a job is loaded or parked it is reset as by an FLR. Log entry 99:
DEDUCED. -/
def execD3hotEntry (s : State) : Host.Outcome State Fault Refusal :=
  if s.dev = .off then .next s
  else
    let t := if s.jobSt ≠ .empty ∨ s.rcv.parked.isSome = true then s.pcieReset 5 false else s
    .next { t with pci := { t.pci with cfg := { t.pci.cfg with d3hot := true } } }

/-! ### Host reads that end in an error (R499) -/

/-- A failed read of one of the objects below counts as a resend of it; the fourth has the outcome of R161 or, of a drain,
of R398. Log entry 143: DEDUCED. -/
def State.countRead (s : State) (base : Nat) (lost : State → State) : State :=
  let n := sparse s.pci.readErr base + 1
  if n < 4 then { s with pci := { s.pci with readErr := put s.pci.readErr base n } }
  else lost { s with pci := { s.pci with readErr := s.pci.readErr.filter (fun e => e.1 != base) } }

/-- 0x4013 of an object of LOADING or of a table, at a field. -/
def State.lostImage (s : State) (f : FieldRef) (base : Nat) : State := s.event 0x4013 0xFF 0 f noIdx (BitVec.ofNat 64 base) 0

/-- The objects of host memory that the device is reading besides data of commands and segments, by base address and
length, each with what its loss leads to. Log entry 143: DEDUCED. -/
def State.hostReads (s : State) : List (Nat × Nat × (State → State)) :=
  let obj := fun (base len : Nat) (lost : State → State) => (base, len, lost)
  let d := s.job.desc
  let tbl := s.ring.tblHi.toNat * 2 ^ 32 + s.ring.tblLo.toNat
  let ad := s.ring.tblTable == 1
  let tgt := s.mqt.tgtHi.toNat * 2 ^ 32 + s.mqt.tgtLo.toNat
  (if s.jobSt = .loading then
      [obj d.pataddr (2 * nPages) (fun t => (t.lostImage (descF 64) d.pataddr).endLoad)] ++
      (if d.nrank = 1 then [] else [obj d.grpaddr (2 ^ 20) (fun t => (t.lostImage (descF 80) d.grpaddr).endLoad)])
    else []) ++
  (if (s.table ad).st = 1 then
      [obj tbl (64 + 8 * nPages) (fun t => (t.lostImage FieldRef.nil tbl).setTable ad { t.table ad with st := 3 })]
    else []) ++
  (match s.mqt.epoch with
    | some e => [obj (tgt + 64 * e.tgt) 64 (fun t => t.epochFail 2)] ++
        (if e.target.kind = 0 then [obj e.target.base.toNat (imageLen e.pages.length) (fun t => t.epochFail 2)] else [])
    | none => []) ++
  (if s.mqt.rstSt = 1 then
      match s.mqt.rstHdr, s.mqt.rstEntry with
      | some h, some e =>
        if e.kind = 0 then (List.range h.npg.toNat).map (fun i =>
          obj (e.base.toNat + imageDir h.npg.toNat + i * pageSize) pageSize (fun t => t.blurCast.badRestore 3 4 i))
        else []
      | _, _ => []
    else [])

/-- A failed read at a host address that no command in flight made: a segment's descriptor or commands (R210), or an object
of `hostReads`. -/
def State.readFails (s : State) (a : Nat) : State :=
  let other := match s.hostReads.find? (fun x => decide (x.1 ≤ a ∧ a < x.1 + x.2.1)) with
    | some (base, _, lost) => s.countRead base lost
    | none => s
  if !s.fetches then other
  else match s.job.seg with
    | .desc false p n => if p ≤ a ∧ a < p + 64 then s.fetchAgain p n (.desc false p (n + 1)) else other
    | .unwritten false p => if p ≤ a ∧ a < p + 64 then s.fetchAgain p 0 (.desc false p 1) else other
    | .cmds d n => if d.csp = false ∧ d.caddr ≤ a ∧ a < d.caddr + 128 * d.ncmd then s.fetchAgain d.caddr n (.cmds d (n + 1)) else other
    | _ => other

/-- AER logs a read error. Log entry 132: PRESUMED. -/
def State.noteAer (s : State) (c : Nat) : State :=
  { s with pci := { s.pci with cfg := { s.pci.cfg with aer := insertNat c s.pci.cfg.aer } } }

/-- PCIE_COMPLETION_TIMEOUT: a host read ends in an error, which counts as a resend (R499). With Completion Timeout Disable
none times out. -/
def execPcieCompletionTimeout (cidx chunk : Nat) (how : HostRead) (addr : DWord) (s : State) :
    Host.Outcome State Fault Refusal :=
  if how = .ok ∨ s.dev = .off ∨ (how = .timeout ∧ s.pci.cfg.noTimeout = true) then .next s
  else
    let s := s.noteAer (readCode how)
    match s.flight cidx with
    | some f =>
      let t := s.evCmd 0x6042 f.cmd.hdr.lcore.toNat FieldRef.nil cidx (readCode how) addr.toNat
      .next (if f.issued && s.fromSpace f == 3 && decide (chunk < f.need) && (f.got.lookup chunk).isNone && !decide (chunk ∈ f.dead)
        then t.chunkFail f chunk 3 else t.readFails addr.toNat)
    | none => .next ((s.ev 0x6042 (readCode how) addr.toNat).readFails addr.toNat)

/-! ### MSI-X -/

/-- Sets a vector's mask; unmasking sends a pending message. -/
def State.setMask (s : State) (v : Nat) (mask : Bool) : State :=
  match s.msix[v]? with
  | none => s
  | some e =>
    let send := !mask && e.pend && s.pci.cfg.msix
    { s with msix := s.msix.set v { e with mask := mask, pend := e.pend && !send }, sent := if send then s.sent ++ [.msix v] else s.sent }

/-- MSIX_UNMASK. -/
def execMsixUnmask (vec : Nat) (s : State) : Host.Outcome State Fault Refusal := .next (if s.dev = .off ∨ s.pln.recov = true then s else s.setMask vec false)

/-! ### BAR2 -/

/-- B2BASE. -/
def State.b2base (s : State) : Nat := s.pci.b2hi.toNat * 2 ^ 32 + s.pci.b2lo.toNat

/-- Sets B2BASE, a multiple of the BAR2 size. -/
def State.setB2 (s : State) (a : Nat) : State :=
  let b := a / 2 ^ s.pci.b2log2 * 2 ^ s.pci.b2log2
  { s with pci := { s.pci with b2lo := BitVec.ofNat 32 b, b2hi := BitVec.ofNat 32 (b / 2 ^ 32) } }

/-- BAR2_RESIZE: sizes of 1 GiB to 512 GiB. -/
def execBar2Resize (log2 : Nat) (s : State) : Host.Outcome State Fault Refusal :=
  if s.dev = .off ∨ log2 < 30 ∨ 39 < log2 then .next s
  else .next (({ s with pci := { s.pci with b2log2 := log2 } } : State).setB2 s.b2base)

/-- Bit 10 of a page attribute: the host may reach the page. -/
def State.hostPage (s : State) (p : Nat) : Bool := bitAt (sparse s.pat.cur p) 10

/-- Bytes of HBM as the host reads them: a die's control record reads its free bytes (R388). -/
def State.hbmHost (s : State) (a n : Nat) : List Byte :=
  (s.hbm.read a n).mapIdx (fun i b =>
    match (List.range 4).find? (fun d => decide (s.dieRecord d ≤ a + i ∧ a + i < s.dieRecord d + 4096)) with
    | some d => (match s.mqt.ctl.getD d none with | some k => Config.freeByte (k + (a + i - s.dieRecord d)) | none => b)
    | none => b)

/-- BAR2_READ: contents of B2 pages, zero elsewhere; a line that the patrol found uncorrectable is read as it is (R151,
R153). -/
def execBar2Read (off len : Nat) (s : State) : Host.Outcome State Fault Refusal :=
  let a := s.b2base + off
  if s.dev = .off ∨ s.pln.recov = true ∨ 2 ^ s.pci.b2log2 < off + len then .next s
  else
    let rs := pageRuns a len
    let t := (rs.filter (fun r => s.hostPage (pageOf r.1))).foldl (fun t r => t.readBad r.1 r.2) s
    .next { t with reply := rs.flatMap (fun r => if s.hostPage (pageOf r.1) then s.hbmHost r.1 r.2 else List.replicate r.2 0) }

/-- One page's part of a host write. A protected page is copied first; with no free staging page the write
waits (R150, R155). Log entry 100: DEDUCED. -/
def State.hostWrite (s : State) (a : Nat) (bs : List Byte) : State :=
  let p := pageOf a
  if s.live || !s.hostPage p || bitAt (sparse s.pat.cur p) 9 || s.pwr.off then s.ev 0x8020 a p
  else s.landOrWait ⟨.hbm, a, bs⟩

/-- BAR2_WRITE. Log entry 100: DEDUCED. -/
def execBar2Write (off : Nat) (data : List Byte) (s : State) : Host.Outcome State Fault Refusal :=
  let a := s.b2base + off
  if s.dev = .off ∨ s.pln.recov = true ∨ 2 ^ s.pci.b2log2 < off + data.length then .next s
  else .next ((pageRuns a data.length).foldl (fun t r => t.hostWrite r.1 ((data.drop (r.1 - a)).take r.2)) s)

end Sys2Proof.Machine
end

