-- ==== Sys2Proof/Machine/HostIf.lean ====
section
/-! DEFINITION. The registers of BAR0 as they read and as a write of one changes them (R6, R7, R503 to R517 and the
tables of every chapter), the event log (R514), verdicts (R379) and the management bus (R506, R531 to
R533). -/
namespace Sys2Proof.Machine

/-! ### Reads -/

/-- The value listed for a key, else zero: an unassigned offset (R6). -/
def pick (l : List (Nat × Nat)) (k : Nat) : Nat := (l.lookup k).getD 0

/-- A bit at a place. -/
def flag (b : Bool) (i : Nat) : Nat := if b then 2 ^ i else 0

/-- The `i`-th 32-bit word of a byte string. -/
def wordOf (bs : List Byte) (i : Nat) : Nat := leOf ((bs.drop (4 * i)).take 4)

/-- A temperature field. -/
def temp16 (t : Int) : Nat := (t % 65536).toNat

/-- PCI and HBC registers (R507, R541) and the MSI-X table and PBA (R508). -/
def State.readPci (s : State) (o : Nat) : Nat :=
  let st := s.fus.cdStep.headD (0, 0)
  let p := s.pci
  let stuck := fun (i b : Nat) => flag (p.stuck.getD i false) b
  if 0x8000 ≤ o ∧ o < 0x8070 then
    match s.msix[(o - 0x8000) / 16]? with
    | none => 0
    | some v => pick [(0, v.addr.toNat % 2 ^ 32), (4, v.addr.toNat / 2 ^ 32), (8, v.data.toNat), (12, flag v.mask 0)] (o % 16)
  else if o = 0x9000 then (s.msix.mapIdx (fun i (v : Vector) => flag v.pend i)).sum
  else if 0x100 ≤ o ∧ o < 0x110 then
    let d := (o - 0x100) / 4
    (p.uncor.getD d 0).toNat * 65536 + (p.cor.getD d 0).toNat
  else pick [
    (0x00, s.fus.grade.toNat * 2 ^ 24 + st.1.toNat * 2 ^ 16 + st.2.toNat * 2 ^ 8 + s.fus.fitting.toNat),
    (0x04, s.fus.serial.toNat % 2 ^ 32), (0x08, s.fus.serial.toNat / 2 ^ 32),
    (0x0C, flag s.rcv.parked.isSome 8 + s.jobSt.code * 16 + s.devst), (0x10, 0x00010000),
    (0x20, if p.up then flag p.degr 10 + flag p.flit 9 + p.width.toNat * 16 + p.speed.toNat else 0),
    (0x30, p.b2lo.toNat), (0x34, p.b2hi.toNat), (0x38, p.b2log2),
    (0x40, (match p.daddr with | some a => 2 ^ 15 + a.toNat * 256 | none => 0)
      + stuck 0 7 + stuck 1 6 + stuck 2 5 + stuck 3 4 + s.fus.straps.toNat)] o

/-- Commands fetched ahead of CHN_NEXT, and the pass and descriptor being fetched (R513). Log entry 43: DEDUCED. -/
def State.ahead (s : State) : Nat × Nat × Bool × Nat :=
  let j := s.job
  let n := (j.flights.filter (fun f => !f.issued)).length + j.disp.length
  match j.seg with
  | .desc sp a _ => (n, 0, sp, a)
  | .unwritten sp a => (n, 0, sp, a)
  | .cmds d _ => (n, 0, d.sp, d.at_)
  | .pass d _ rest p => (n + rest.length, p, d.sp, d.at_)
  | _ => (n, 0, false, 0)

/-- The pending APPLY of a table. -/
def Table.pendApply (t : Table) : Nat := if t.st = 1 ∨ t.st = 2 then t.apply.toNat else 0

/-- JOB and CHN registers (R289, R315, R512, R513), by offset from 0x10_0000. Log entry 43: DEDUCED. -/
def State.readJob (s : State) (o : Nat) : Nat :=
  let r := s.ring
  let j := s.job
  let d := j.dec
  let (n, pass, sp, at_) := s.ahead
  pick ([(0x00, r.baseLo.toNat), (0x04, r.baseHi.toNat), (0x08, r.log2), (0x10, r.cons.toNat), (0x18, j.phase),
     (0x1C, s.curStepWord.toNat), (0x20, r.fltIdx.toNat % 2 ^ 32), (0x28, r.fltCode.toNat), (0x2C, r.flagEvt), (0x30, r.sigVal.toNat),
     (0x38, r.crCons.toNat), (0x3C, j.crProd), (0x40, r.ilkCtl.toNat)] ++
    [(0x800, flag d.skip 31 + flag d.localL 30 + flag d.whyCol 29 + flag d.whyWat 28 + flag d.whyFin 27 + d.noff.toNat),
     (0x804, d.first.toNat), (0x808, d.skipRun.toNat), (0x80C, d.skipTot.toNat), (0x810, d.skipLim.toNat),
     (0x900, r.tblLo.toNat), (0x904, r.tblHi.toNat), (0x90C, s.pat.st * 2 ^ 30 + s.adt.st * 2 ^ 28),
     (0x910, s.pat.gen % 65536 * 65536 + s.adt.gen % 65536), (0x914, s.pat.pendApply), (0x918, s.adt.pendApply)] ++
    [(0xA00, s.nextIssue % 2 ^ 32), (0xA08, pass % 65536 * 65536 + min 8192 n), (0xA0C, at_ % 2 ^ 32 / 64 * 64 + flag sp 0)]) o

/-- An event record's bytes (R235). -/
def EvRec.bytes (e : EvRec) : List Byte :=
  leBytes 2 e.code ++ leBytes 1 e.lcore ++ leBytes 1 (flag e.lost 7 + e.die) ++ leBytes 2 (e.field.word * 1024 + e.field.bit * 32 + e.field.wid)
    ++ leBytes 2 0 ++ leBytes 8 e.cidx.toNat ++ leBytes 8 e.drone ++ leBytes 8 e.wall ++ leBytes 8 e.arg0.toNat ++ leBytes 8 e.arg1.toNat

/-- The event log (R514, R515), by offset from 0x20_0000. -/
def State.readEvt (s : State) (o : Nat) : Nat :=
  let e := s.evt
  if 0x40 ≤ o ∧ o < 0x80 then (e.cnt.getD ((o - 0x40) / 4) 0).toNat
  else if 0x1000 ≤ o ∧ o < 0x31000 then
    let k := (o - 0x1000) / 48
    match e.log.find? (fun r => r.1 % 4096 == k) with
    | some r => wordOf r.2.bytes ((o - 0x1000) % 48 / 4)
    | none => 0
  else pick [(0x0, e.head.toNat), (0x4, e.tail.toNat), (0x8, e.lostCnt.toNat), (0xC, e.irqen.toNat)] o

/-- PWR, BLW and THM registers (R453, R541), by offset from 0x30_0000. -/
def State.readPwr (s : State) (o : Nat) : Nat :=
  let p := s.pwr
  let b := s.brd
  if 0x200 ≤ o ∧ o < 0x210 then temp16 (p.tdie.getD ((o - 0x200) / 4) 0)
  else if 0x210 ≤ o ∧ o < 0x240 then temp16 (p.thbm.getD ((o - 0x210) / 4) 0)
  else pick ([(0x00, p.capRt), (0x04, flag p.meas 31 + flag p.throtDie.isSome 30 + flag p.throtHbm.isSome 29 + flag (p.dInlet != 0) 28 + p.ceff),
     (0x08, p.vin % 65536 * 65536 + p.pin % 65536), (0x0C, p.iin % 2 ^ 17), (0x10, p.pmx % 65536 * 65536 + p.pest % 65536),
     (0x14, p.trip.toNat), (0x18, p.rho * 65536 + p.k), (0x20, b.instat.toNat)] ++
    [(0x24, (b.limit.mapIdx (fun i (x : Bool) => flag x (16 + i))).sum + flag b.pump 0),
     (0x28, b.leak * 2 ^ 30 + b.tinSt * 2 ^ 28 + b.toutSt * 2 ^ 26 + b.leakR),
     (0x100, s.cfg 0x0403 * 2 ^ 31 + p.cls * 2 ^ 28 + p.opent * 2 ^ 24 + min p.ilim (min p.itherm p.iguide) * 65536 + p.eslope * 256 + p.itherm),
     (0x240, temp16 p.tin), (0x244, temp16 p.tout)]) o

/-- The code of a peer state. -/
def peerCode : PeerSt → Nat
  | .up => 0 | .silent => 1 | .recovering => 2 | .rejoined => 3 | .stopped => 4

/-- NET registers (R350), by offset from 0x40_0000. Log entry 105: DESIGN CHOICE. -/
def State.readNet (s : State) (o : Nat) : Nat :=
  let n := s.net
  let q := n.peers.find? (fun p => p.rank == n.peerSel.toNat)
  let i := o % 16 / 4
  if 0x10 ≤ o ∧ o < 0x20 then
    flag (n.portUp.getD i false) 31 + flag (n.portAn.getD i false) 30 + flag (n.portPfc.getD i false) 29 + n.laneOk.getD i 0 * 65536 + n.phy.getD i 0
  else if 0x20 ≤ o ∧ o < 0x30 then (n.fecCor.getD i 0).toNat
  else if 0x30 ≤ o ∧ o < 0x40 then (n.fecUnc.getD i 0).toNat
  else if 0x50 ≤ o ∧ o < 0x60 then (n.d2d.getD i 0).toNat
  else pick [(0x00, s.cfg 0x0104 * 65536 + s.cfg 0x010C * 8 + s.cfg 0x010D * 4 + s.cfg 0x0101),
    (0x40, n.retx.toNat), (0x44, n.dupDrop.toNat), (0x48, n.busy.toNat), (0x4C, n.badTag.toNat), (0x60, n.peerSel.toNat),
    (0x64, match q with
      | some p => peerCode p.st * 2 ^ 29 + p.devst * 2 ^ 26 + p.jobst * 2 ^ 22 + p.resets % 256 * 2 ^ 14 + flag p.unreach 13
      | none => 0),
    (0x68, match q with | some p => p.drone.toNat | none => 0),
    (0x70, flag n.retOvf 31 + min 0x1FFFF (s.retained / 2 ^ 20))] o

/-- DRN and CKM registers (R204, R315, R351, R425, R470, R541), by offset from 0x50_0000. -/
def State.readDrn (s : State) (o : Nat) : Nat :=
  let d := s.drn
  let r := s.rcv
  let io := s.fus.iodStep
  let cd := s.fus.cdStep.headD (0, 0)
  let replay := match r.replayTo with | some m => decide (s.nextIssue < m) | none => false
  if 0x40 ≤ o ∧ o < 0x80 then (d.cnt.getD ((o - 0x40) / 4) 0).toNat
  else pick ([(0x00, d.beat % 2 ^ 32), (0x08, d.cyc % 2 ^ 32), (0x10, flag d.held 31 + d.cause * 65536 + d.die * 2 ^ 14 + d.core),
     (0x14, d.warn.toNat), (0x18, s.ptp.wall % 2 ^ 32),
     (0x20, flag s.ptp.lock 31 + flag s.ptp.ppsOk 30 + s.ptp.port * 256 + s.cfg 0x010B),
     (0x24, (s.ptp.ofs % 2 ^ 32).toNat),
     (0x28, flag s.ptp.ppsOk 31 + flag s.ptp.ppsSwap 30 + s.brd.ppsReason * 2 ^ 24 + s.brd.ppsWidth)] ++
    [(0x1000, flag s.cast.p 31 + flag s.cast.loadOpen 30 + s.cast.touch.length), (0x1004, s.cast.nswitch.toNat % 2 ^ 32),
     (0x1014, r.phase * 2 ^ 28 + r.cause * 2 ^ 24 + flag r.parked.isSome 23 + flag replay 22 + min 255 r.count),
     (0x1018, r.slice.toNat), (0x101C, r.overrun.toNat), (0x1020, r.preMax.toNat)] ++
    [(0x1030, flag s.clk.stopped 31 + flag s.clk.aligned 30 + s.clk.mhz), (0x1034, s.clk.nalign.toNat * 65536 + s.clk.tries * 4),
     (0x1038, io.1.toNat * 2 ^ 24 + io.2.toNat * 2 ^ 16 + cd.1.toNat * 2 ^ 8 + cd.2.toNat)]) o

/-- AUD and MQT registers (R266, R384, R426), by offset from 0x60_0000. -/
def State.readAud (s : State) (o : Nat) : Nat :=
  let a := s.aud
  let j := s.job.jrn
  let m := s.mqt
  let l := a.coreSel.toNat
  let g := a.guilt.getD l Guilt.clean
  let lead := if s.duoOn then min 0xFFFFFF (s.drn.beat - s.duo.lastPtn) else 0
  pick ([(0x00, j.head), (0x04, j.tail), (0x08, a.stepBase.toNat), (0x0C, a.rplCtl.toNat), (0x10, a.rplRefLo.toNat), (0x14, a.rplRefHi.toNat),
     (0x18, flag a.rplMis 31 + flag a.rplBad 30 + a.rplEtype), (0x1C, a.rplStep.toNat), (0x20, a.rplIdx.toNat % 2 ^ 32),
     (0x40, flag (s.duoOn && s.net.portUp.getD 3 false) 31 + flag s.duo.mis 30 + flag s.duo.lost 29 + lead),
     (0x48, s.duo.beat.toNat % 2 ^ 32), (0x50, s.duo.idx.toNat % 2 ^ 32), (0x58, s.duo.rdOwn.toNat % 2 ^ 32),
     (0x60, s.duo.rdPtn.toNat % 2 ^ 32)] ++
    [(0x80, a.audCtl.toNat), (0x84, a.repCtl.toNat), (0x88, flag a.amis 31 + flag a.rmis 30 + flag a.nomaj 29 + a.sedRank.toNat),
     (0x8C, a.sedStep.toNat), (0x94, l),
     (0x98, if l < s.nCores then g.last * 2 ^ 30 + flag (g.pend.isSome || !g.patina.isEmpty) 29 + flag g.test 28 + min 0xFFFF (s.inWindow g).length else 0)] ++
    [(0x1000, m.tgtLo.toNat), (0x1004, m.tgtHi.toNat),
     (0x1008, flag m.epoch.isSome 31 + flag m.lastDone 30 + flag m.lastFail 29
       + (match m.epoch with | some e => e.tgt | none => m.lastTgt) * 2 ^ 24),
     (0x100C, match m.epoch with | some e => e.epoch.toNat | none => m.lastEpoch.toNat),
     (0x1010, match m.epoch with | some e => e.pages.length - e.done.length | none => 0),
     (0x1014, match m.epoch with | some e => e.staged.length | none => 0),
     (0x1020, flag m.verify 30 + m.rstTgt), (0x1024, m.rstSt * 2 ^ 30 + flag m.rstAcc 29 + flag m.rstMis 28 + m.rstReason)]) o

/-- PLN registers (R496), by offset from 0x70_0000. -/
def State.readPln (s : State) (o : Nat) : Nat :=
  let p := s.pln
  pick ([(0x00, p.slot * 2 ^ 31 + flag p.trial 30 + flag p.userRej 29 + flag p.userAbs 28 + flag p.recov 27 + s.nv.bootCnt % 65536),
     (0x04, p.fwVer), (0x08, s.fus.svnFloor % 65536 * 65536 + p.fwSvn % 65536), (0x10, p.cfgDig.toNat % 2 ^ 32), (0x14, p.cfgDig.toNat / 2 ^ 32),
     (0x18, flag p.locked 31), (0x20, p.updLo.toNat), (0x24, p.updHi.toNat), (0x28, p.updLen.toNat)] ++
    [(0x30, p.updSt * 2 ^ 30 + p.updReason), (0x40, p.qLo.toNat), (0x44, p.qHi.toNat), (0x4C, p.qSt * 2 ^ 30 + flag p.qHss 29 + p.qLen),
     (0x50, s.lmsLeft)]) o

/-- A remap entry as CFG_REMAP shows it. -/
def State.remapEntry (s : State) (l : Nat) : Nat := if l < s.nCores then (s.remap.cur.getD l 0).toNat else 0

/-- CFG_SPARE of a die (R516). -/
def State.spareWord (s : State) (d : Nat) : Nat :=
  let rs := s.retiredOn d
  let sp := s.fus.spares.getD d []
  let idle := fun (p : Nat) => decide (rs.length < 4) && !rs.any (fun r => match r with | .core _ _ new => new == p | .spare _ q => q == p)
  min 4 rs.length * 2 ^ 28 + (sp.mapIdx (fun i p => flag (idle p) (24 + i))).sum + (sp.mapIdx (fun i p => p * 64 ^ i)).sum

/-- CFG registers (R516), by offset from 0x74_0000. -/
def State.readCfg (s : State) (o : Nat) : Nat :=
  if o < 0x200 then s.remapEntry (o / 2) + 65536 * s.remapEntry (o / 2 + 1)
  else if 0x410 ≤ o ∧ o < 0x420 then s.spareWord ((o - 0x410) / 4)
  else if 0x500 ≤ o ∧ o < 0x530 then wordOf s.pln.cfgFull ((o - 0x500) / 4)
  else pick [(0x400, flag (!s.nextRemap.isEmpty) 16 + s.remap.gen.toNat), (0x600, (canonical s.img).length)] o

/-- A clock-gated core (R239). Log entry 93: DEDUCED. -/
def State.gated (s : State) (l : Nat) : Bool := s.jobSt != .empty && s.job.desc.cls == 2 && decide (40 ≤ l % s.perDie)

/-- Queue entries a core holds. Log entry 121: DEDUCED. -/
def State.queued (s : State) (l : Nat) (q : Queue) : Nat := (s.inSlots.filter (fun x => x.1 == q && x.2.1 == l)).length

/-- A register of the window of logical core `l` (R119, R144, R203, R385, R454, R517). -/
def State.readCore (s : State) (l o : Nat) : Nat :=
  let k := s.core l
  let g := s.gated l
  let v := if s.jobSt ≠ .empty ∧ s.job.desc.cls = 2 ∧ !g then l / s.perDie * 40 + l % s.perDie else 0xFF
  let fixed := pick [(0x0000, flag (!g) 31 + flag g 30 + v * 65536 + l / s.perDie * 2 ^ 14 + (s.remap.cur.getD l 0).toNat % 64 * 256 + l),
    (0x4008, s.mode s.nextIssue), (0x400C, flag k.lutRdy 16 + k.lutGen), (0x5008, k.eccAddr.toNat),
    (0x6000, s.pwr.margins.getD l 0 * 65536 + s.pwr.trims.getD l 0)] o
  let counters := pick ([(0x2000, s.queued l .mvq * 2 ^ 25 + s.queued l .rdq * 2 ^ 18 + s.queued l .vxq * 2 ^ 9 + s.queued l .mxq),
    (0x2004, k.ilkData.toNat), (0x2008, k.ilkUnit.toNat), (0x200C, k.ilkAper.toNat), (0x2010, k.ilkMove.toNat), (0x2014, k.dueMiss.toNat)] ++
    [(0x3000, k.chkCsum.toNat * 65536 + k.chkRes.toNat), (0x4000, k.vxeFlags.toNat), (0x4004, k.fmCnt.toNat),
    (0x4010, k.redRes.toNat * 65536 + k.vecRes.toNat), (0x5000, k.conflict.toNat), (0x5004, k.eccUncor.toNat * 65536 + k.eccCor.toNat)]) o
  if g then fixed else fixed + counters

/-- LO words whose read latches the HI word (R204): the offset of each, and the whole value. -/
def State.pairs (s : State) : List (Nat × Nat) :=
  [(0x500000, s.drn.beat), (0x500008, s.drn.cyc), (0x500018, s.ptp.wall), (0x100020, s.ring.fltIdx.toNat), (0x100A00, s.nextIssue),
   (0x600020, s.aud.rplIdx.toNat), (0x600048, s.duo.beat.toNat), (0x600050, s.duo.idx.toNat), (0x600058, s.duo.rdOwn.toNat),
   (0x600060, s.duo.rdPtn.toNat)]

/-- A latched HI word; one never latched reads its Reset value. -/
def State.latched (s : State) (off : Nat) : Nat :=
  match s.latch.lookup off with
  | some w => w.toNat
  | none => if off = 0x100024 then 0xFFFFFFFF else 0

/-- Whether an offset is served: in recovery mode the PLN block and the event log alone (R484). Log entry 93:
DEDUCED. -/
def State.served (s : State) (off : Nat) : Bool :=
  s.dev != .off && (!s.pln.recov || (decide (0x700000 ≤ off) && decide (off < 0x700064)) || (decide (0x200000 ≤ off) && decide (off < 0x231000)))

/-- Whether the per-core windows are served: from a reset's trigger to its end they read zero and ignore writes (R401). -/
def State.servesWindows (s : State) : Bool := s.dev != .recovering

/-- The word at an aligned BAR0 offset. -/
def State.regWord (s : State) (off : Nat) : Nat :=
  if !s.served off then 0
  else if s.pairs.any (fun p => p.1 + 4 == off) then s.latched off
  else if off < 0x10000 then s.readPci off
  else if off < 0x100000 then 0
  else if off < 0x110000 then s.readJob (off - 0x100000)
  else if off < 0x200000 then 0
  else if off < 0x240000 then s.readEvt (off - 0x200000)
  else if off < 0x300000 then 0
  else if off < 0x310000 then s.readPwr (off - 0x300000)
  else if off < 0x400000 then 0
  else if off < 0x410000 then s.readNet (off - 0x400000)
  else if off < 0x500000 then 0
  else if off < 0x510000 then s.readDrn (off - 0x500000)
  else if off < 0x600000 then 0
  else if off < 0x610000 then s.readAud (off - 0x600000)
  else if off < 0x700000 then 0
  else if off < 0x710000 then s.readPln (off - 0x700000)
  else if off < 0x740000 then 0
  else if off < 0x750000 then s.readCfg (off - 0x740000)
  else if off < 0x780000 then 0
  else if off < 0x7C0000 then wordOf (canonical s.img) ((off - 0x780000) / 4)
  else if off < 0x7E0000 then 0
  else if off < 0x7E2000 then leOf (s.mgmt.box.read (off - 0x7E0000) 4)
  else if off < 0x1000000 then 0
  else if s.servesWindows && (off - 0x1000000) / 0x10000 < s.nCores then s.readCore ((off - 0x1000000) / 0x10000) (off % 0x10000)
  else 0

/-- The phase of R403 in progress moves on, how far is timing. Log entry 144: DESIGN CHOICE. -/
def State.progress (s : State) : State :=
  if s.dev = .recovering then
    let (n, t) := s.nat
    { t with rcv := { t.rcv with phase := max s.rcv.phase (n % 8 + 1) } }
  else s

/-- A read of one word: a LO word latches its HI word; CKM_RCVSTAT shows the phase that a reset has come to. -/
def State.readWord (s : State) (off : Nat) : Nat × State :=
  let s := if off = 0x501014 then s.progress else s
  match s.pairs.lookup off with
  | some v => (s.regWord off, if s.served off then { s with latch := put s.latch (off + 4) (BitVec.ofNat 32 (v / 2 ^ 32)) } else s)
  | none => (s.regWord off, s)

/-- A read of `n` words from an aligned offset, in ascending order (R504). -/
def State.readWords (s : State) (off : Nat) : Nat → List Byte × State
  | 0 => ([], s)
  | n + 1 =>
    let (w, t) := s.readWord off
    let (l, u) := t.readWords (off + 4) n
    (leBytes 4 w ++ l, u)

/-- LATCHING_READ: the requested bytes of the words that contain them; a 64-bit read of a LO and HI pair takes both
from one value (R204, R504). -/
def execLatchingRead (r : RegRead) (s : State) : Host.Outcome State Fault Refusal :=
  let (bs, t) := s.readWords (r.off / 4 * 4) (ceilDiv (r.off % 4 + r.width) 4)
  .next { t with reply := (bs.drop (r.off % 4)).take r.width }

/-! ### Writes of registers that have a row of their own -/

/-- EVT_TAIL (R514): beyond EVT_HEAD or backward it is ignored. -/
def State.writeTail (s : State) (v : Word) : State :=
  if (s.evt.head - s.evt.tail).toNat < (v - s.evt.tail).toNat then s.ignored 4 0x200004
  else { s with evt := { s.evt with tail := v } }

/-- EVT_TAIL_WRITE. -/
def execEvtTailWrite (value : Word) (s : State) : Host.Outcome State Fault Refusal := .next (if s.dev = .off then s else s.writeTail value)

/-- PWR_INSTAT_CLEAR: bits 7 to 1 of PWR_INSTAT and of the input stage's record (R524). -/
def execPwrInstatClear (value : Word) (s : State) : Host.Outcome State Fault Refusal :=
  let m : Byte := ~~~(value.truncate 8 &&& 0xFE)
  .next (if s.served 0x300020 then { s with brd := { s.brd with instat := s.brd.instat &&& m, record := s.brd.record &&& m } } else s)

/-- AUD_VERDICT_WRITE (R379). -/
def execAudVerdictWrite (value : Word) (s : State) : Host.Outcome State Fault Refusal :=
  let l := value.toNat % 256
  if !value.getLsbD 31 || !s.served 0x600090 then .next s
  else if s.dev = .failed then .next (s.reject 0)
  else if value.getLsbD 30 then .next (s.chargeModule 2)
  else .next (if l < s.nCores then s.charge l 2 else s)

/-- The state a meaning answers. -/
def after (s : State) (o : Host.Outcome State Fault Refusal) : State :=
  match o with
  | .next t => t
  | _ => s

/-! ### Writes of registers that start what has a row of its own

Such a row brings what the device then reads or finds. A plain write of the register (R504) brings none of it, and each such
value is free. Log entry 101: DEDUCED. -/

/-- A free 32-bit number by its place. -/
def State.freeWord (s : State) (i : Nat) : Word := BitVec.ofNat 32 (Config.freeNat (s.free + i))

/-- A free 64-bit number by its place. -/
def State.freeDWord (s : State) (i : Nat) : DWord := BitVec.ofNat 64 (Config.freeNat (s.free + i))

/-- The state with `n` free values used. -/
def State.drawn (s : State) (n : Nat) : State := { s with free := s.free + n }

/-- How a host read ends. -/
def State.freeRead (s : State) (i : Nat) : HostRead :=
  [HostRead.ok, .timeout, .unsupported, .abort, .poisoned].getD (Config.freeNat (s.free + i) % 5) .ok

/-- The header of a table image. -/
def State.freeHead (s : State) : TableHead :=
  ⟨BitVec.ofNat 8 (Config.freeNat s.free), Config.freeBit s.free, s.freeWord 1, s.freeWord 2, s.freeWord 3, s.freeDWord 4⟩

/-- The top of an epoch image, with a Cast state record of its length. -/
def State.freeTop (s : State) : ImageTop :=
  let h := fun (i : Nat) => (BitVec.ofNat 16 (Config.freeNat (s.free + i)) : BitVec 16)
  ⟨⟨h 0, Config.freeBit s.free, s.freeWord 1, s.freeWord 2, s.freeWord 3, s.freeDWord 4, s.freeDWord 5, h 6, h 7, s.freeWord 8, s.freeDWord 9,
     s.freeDWord 10⟩, (s.bytes (castRecord s.cast s.castPages).length).1⟩

/-- A firmware payload. -/
def State.freeFw (s : State) : FwPayload :=
  let n := fun (i : Nat) => Config.freeNat (s.free + i)
  ⟨n 0 % 2 ^ 32, n 1 % 2 ^ 32, n 2 % 16, n 3 % 16, (s.bytes 8288).1, (s.bytes (s.pln.updLen.toNat - 8416)).1, Config.freeBit s.free,
   Config.freeBit (s.free + 1)⟩

/-- What a reset finds in the silicon. -/
def State.freeReset (s : State) : ResetInput :=
  let n := fun (i : Nat) => Config.freeNat (s.free + i)
  ⟨s.drawFails.1, (List.range (n 7 % 193)).map (fun i => (n (8 + 2 * i) % 192, n (9 + 2 * i))),
   (List.range (n 400 % 17)).map (fun i => (n (401 + 2 * i) % 4, n (402 + 2 * i))), none, s.freeDWord 440⟩

/-- What a boot finds. -/
def State.freeBoot (s : State) : BootInput :=
  let n := fun (i : Nat) => Config.freeNat (s.free + i)
  let pairs := fun (i : Nat) => (List.range (n i % 17)).map (fun k => (n (i + 1 + 2 * k) % 2, n (i + 2 + 2 * k) % 8 + 1))
  ⟨pairs 500, pairs 600, Config.freeBit s.free, Config.freeBit (s.free + 1), s.freeReset⟩

/-- PLN_UPDCTL with GO (R488, R496). -/
def State.goUpdate (s : State) (v : Word) : Host.Outcome State Fault Refusal :=
  let t := s.drawn 8288
  match v.toNat % 8 with
  | 1 => execFirmwareSlotWrite s.freeFw (s.freeRead 4) t
  | 2 => execUserImageWrite (s.bytes (s.pln.updLen.toNat - 64)).1 (s.freeRead 4) t
  | 3 => execUserImageErase t
  | 4 => execSvnFloorRaise t
  | _ => .next s

/-- PLN_QCTL with GO (R493, R506). -/
def State.goQuote (s : State) (mgmt : Bool) : Host.Outcome State Fault Refusal :=
  execQuoteRequest mgmt (s.bytes 32).1 (Config.freeNat s.free) (Config.freeNat (s.free + 1)) (s.drawn 32)

/-! ### Writes -/

/-- JOB_CTRL (R222, R512): the requests. -/
def State.request (s : State) (v : Word) : State :=
  match v.toNat % 16 with
  | 1 => after s (execAbort s)
  | 2 => after s (execPause s)
  | 3 => after s (execResume (s.freeDWord 0) (s.drawn 1))
  | 4 => after s (execRelease s)
  | 5 => after s (execDiscard s)
  | n => s.reject n

/-- A write of the AUD registers that a job latches: ignored while one is loaded (R266, R384). -/
def State.audWrite (s : State) (off : Nat) (f : Aud → Aud) : State :=
  if s.jobSt = .empty then { s with aud := f s.aud } else s.ev 0xA020 off s.jobSt.code

/-- Sets an element of a list of words. -/
def setAt {α : Type} (l : List α) (i : Nat) (v : α) : List α := l.set i v

/-- PCI, HBC and MSI-X registers. -/
def State.writePci (s : State) (o : Nat) (v : Word) : State :=
  let n := v.toNat
  if 0x8000 ≤ o ∧ o < 0x8070 then
    let i := (o - 0x8000) / 16
    let put := fun (f : Vector → Vector) => { s with msix := upd s.msix i f }
    match o % 16 / 4 with
    | 0 => put (fun (e : Vector) => { e with addr := BitVec.ofNat 64 (e.addr.toNat / 2 ^ 32 * 2 ^ 32 + n) })
    | 1 => put (fun (e : Vector) => { e with addr := BitVec.ofNat 64 (n * 2 ^ 32 + e.addr.toNat % 2 ^ 32) })
    | 2 => put (fun (e : Vector) => { e with data := v })
    | _ => s.setMask i (v.getLsbD 0)
  else if 0x100 ≤ o ∧ o < 0x110 then
    let d := (o - 0x100) / 4
    { s with pci := { s.pci with uncor := s.pci.uncor.set d (BitVec.ofNat 16 (n / 65536)), cor := s.pci.cor.set d (BitVec.ofNat 16 n) } }
  else if o = 0x30 then s.setB2 (s.pci.b2hi.toNat * 2 ^ 32 + n)
  else if o = 0x34 then s.setB2 (n * 2 ^ 32 + s.pci.b2lo.toNat)
  else s

/-- JOB registers, by offset from 0x10_0000. Log entry 101: DEDUCED. -/
def State.writeJob (s : State) (o : Nat) (v : Word) : State :=
  if o = 0x00 then after s (execJobRingRegisterWrite .baseLo v s)
  else if o = 0x04 then after s (execJobRingRegisterWrite .baseHi v s)
  else if o = 0x08 then after s (execJobRingRegisterWrite .size v s)
  else if o = 0x0C then
    let n := ((v.truncate 16 : Half) - s.ring.prod).toNat
    after s (execJobDoorbell v ((List.range n).map (fun i => BitVec.ofNat 4 (Config.freeNat (s.free + i)))) (s.drawn n))
  else if o = 0x14 then s.request v
  else if o = 0x2C then { s with ring := { s.ring with flagEvt := v.toNat % 64 } }
  else if o = 0x30 then { s with ring := { s.ring with sigVal := v } }
  else if o = 0x34 then after s (execJobSigadd v s)
  else if o = 0x38 then after s (execJobCrconsWrite v s)
  else if o = 0x40 then { s with ring := { s.ring with ilkCtl := v } }
  else if o = 0x810 then { s with job := { s.job with dec := { s.job.dec with skipLim := v } } }
  else if o = 0x900 then { s with ring := { s.ring with tblLo := v } }
  else if o = 0x904 then { s with ring := { s.ring with tblHi := v } }
  else if o = 0x908 then after s (execTableImageLoad v s.freeHead (s.drawn 5))
  else s

/-- EVT registers, by offset from 0x20_0000. -/
def State.writeEvt (s : State) (o : Nat) (v : Word) : State :=
  if o = 0x04 then s.writeTail v
  else if o = 0x0C then { s with evt := { s.evt with irqen := v.truncate 16 } }
  else if 0x40 ≤ o ∧ o < 0x80 then { s with evt := { s.evt with cnt := setAt s.evt.cnt ((o - 0x40) / 4) v } }
  else s

/-- PWR registers, by offset from 0x30_0000. -/
def State.writePwr (s : State) (o : Nat) (v : Word) : State :=
  if o = 0x00 then { s with pwr := { s.pwr with capRt := max 1200 (v.toNat % 4096) } }
  else if o = 0x14 then after s (execPwrTripClr v s.freeReset (s.drawn 441))
  else if o = 0x20 then after s (execPwrInstatClear v s)
  else s

/-- NET registers, by offset from 0x40_0000. -/
def State.writeNet (s : State) (o : Nat) (v : Word) : State :=
  let n := s.net
  let i := o % 16 / 4
  let t := fun (x : Net) => { s with net := x }
  if 0x20 ≤ o ∧ o < 0x30 then t { n with fecCor := setAt n.fecCor i v }
  else if 0x30 ≤ o ∧ o < 0x40 then t { n with fecUnc := setAt n.fecUnc i v }
  else if o = 0x40 then t { n with retx := v }
  else if o = 0x44 then t { n with dupDrop := v }
  else if o = 0x48 then t { n with busy := v }
  else if o = 0x4C then t { n with badTag := v }
  else if 0x50 ≤ o ∧ o < 0x60 then t { n with d2d := setAt n.d2d i v }
  else if o = 0x60 then t { n with peerSel := v.truncate 16 }
  else s

/-- DRN and CKM registers, by offset from 0x50_0000. -/
def State.writeDrn (s : State) (o : Nat) (v : Word) : State :=
  if o = 0x14 then { s with drn := { s.drn with warn := v } }
  else if 0x40 ≤ o ∧ o < 0x80 then { s with drn := { s.drn with cnt := setAt s.drn.cnt ((o - 0x40) / 4) v } }
  else if o = 0x1010 then after s (execCkmRstctlWrite v s)
  else if o = 0x1018 then { s with rcv := { s.rcv with slice := v } }
  else s

/-- AUD and MQT registers, by offset from 0x60_0000. MQT_RSTCTL reads its target entry and the image's top. -/
def State.writeAud (s : State) (o : Nat) (v : Word) : State :=
  let off := 0x600000 + o
  if o = 0x04 then after s (execAudJtailWrite v s)
  else if o = 0x08 then s.audWrite off (fun (a : Aud) => { a with stepBase := v })
  else if o = 0x0C then s.audWrite off (fun (a : Aud) => { a with rplCtl := v &&& 7 })
  else if o = 0x10 then s.audWrite off (fun (a : Aud) => { a with rplRefLo := v })
  else if o = 0x14 then s.audWrite off (fun (a : Aud) => { a with rplRefHi := v })
  else if o = 0x80 then s.audWrite off (fun (a : Aud) => { a with audCtl := v &&& 0x80FFFFFF })
  else if o = 0x84 then s.audWrite off (fun (a : Aud) => { a with repCtl := v &&& 0x8000FFFF })
  else if o = 0x90 then after s (execAudVerdictWrite v s)
  else if o = 0x94 then { s with aud := { s.aud with coreSel := v.truncate 8 } }
  else if o = 0x1000 then { s with mqt := { s.mqt with tgtLo := v } }
  else if o = 0x1004 then { s with mqt := { s.mqt with tgtHi := v } }
  else if o = 0x1020 then
    let a := s.mqt.tgtHi.toNat * 2 ^ 32 + s.mqt.tgtLo.toNat + 64 * (v.toNat % 4)
    after s (execMaquetteRestore v ((List.range 64).map (fun i => (a + i, Config.freeByte (s.free + i)))) s.freeTop
      (s.drawn (castRecord s.cast s.castPages).length))
  else s

/-- PLN registers, by offset from 0x70_0000. -/
def State.writePln (s : State) (o : Nat) (v : Word) : State :=
  let t := fun (x : Pln) => { s with pln := x }
  if o = 0x20 then t { s.pln with updLo := v }
  else if o = 0x24 then t { s.pln with updHi := v }
  else if o = 0x28 then t { s.pln with updLen := v }
  else if o = 0x2C then (if v.getLsbD 31 then after s (s.goUpdate v) else s)
  else if o = 0x40 then t { s.pln with qLo := v }
  else if o = 0x44 then t { s.pln with qHi := v }
  else if o = 0x48 then (if v.getLsbD 31 then after s (s.goQuote false) else s)
  else if o = 0x60 then after s (execModuleRestart v s.freeBoot (s.drawn 700))
  else s

/-- Registers of a core's window. -/
def State.writeCore (s : State) (l o : Nat) (v : Word) : State :=
  let hi : Half := BitVec.ofNat 16 (v.toNat / 65536)
  let lo : Half := v.truncate 16
  if o = 0x2004 then s.setCore l (fun (k : Core) => { k with ilkData := v })
  else if o = 0x2008 then s.setCore l (fun (k : Core) => { k with ilkUnit := v })
  else if o = 0x200C then s.setCore l (fun (k : Core) => { k with ilkAper := v })
  else if o = 0x2010 then s.setCore l (fun (k : Core) => { k with ilkMove := v })
  else if o = 0x2014 then s.setCore l (fun (k : Core) => { k with dueMiss := v })
  else if o = 0x3000 then s.setCore l (fun (k : Core) => { k with chkCsum := hi, chkRes := lo })
  else if o = 0x4000 then s.setCore l (fun (k : Core) => { k with vxeFlags := k.vxeFlags &&& ~~~(BitVec.ofNat _ (v.toNat % 64)) })
  else if o = 0x4004 then s.setCore l (fun (k : Core) => { k with fmCnt := v })
  else if o = 0x4010 then s.setCore l (fun (k : Core) => { k with redRes := hi, vecRes := lo })
  else if o = 0x5000 then s.setCore l (fun (k : Core) => { k with conflict := v })
  else if o = 0x5004 then s.setCore l (fun (k : Core) => { k with eccUncor := hi, eccCor := lo })
  else s

/-- A write of one word at an aligned BAR0 offset: an unassigned or read-only register ignores it (R6, R7). Log
entry 101: DEDUCED. Log entry 102: DEDUCED. -/
def State.writeWord (s : State) (off : Nat) (v : Word) : State :=
  if !s.served off then s
  else if off < 0x10000 then s.writePci off v
  else if off < 0x100000 then s
  else if off < 0x110000 then s.writeJob (off - 0x100000) v
  else if off < 0x200000 then s
  else if off < 0x210000 then s.writeEvt (off - 0x200000) v
  else if off < 0x300000 then s
  else if off < 0x310000 then s.writePwr (off - 0x300000) v
  else if off < 0x400000 then s
  else if off < 0x410000 then s.writeNet (off - 0x400000) v
  else if off < 0x500000 then s
  else if off < 0x510000 then s.writeDrn (off - 0x500000) v
  else if off < 0x600000 then s
  else if off < 0x610000 then s.writeAud (off - 0x600000) v
  else if off < 0x700000 then s
  else if off < 0x710000 then s.writePln (off - 0x700000) v
  else if off < 0x7E0000 then s
  else if off < 0x7E2000 then { s with mgmt := { s.mgmt with box := s.mgmt.box.setBytes (off - 0x7E0000) (leBytes 4 v.toNat) } }
  else if off < 0x1000000 then s
  else if s.servesWindows && (off - 0x1000000) / 0x10000 < s.nCores then s.writeCore ((off - 0x1000000) / 0x10000) (off % 0x10000) v
  else s

/-- REGISTER_WRITE: aligned 32-bit and 64-bit writes, a 64-bit one as its LO word and then its HI word; others are
ignored (R504). -/
def execRegisterWrite (off width : Nat) (value : DWord) (s : State) : Host.Outcome State Fault Refusal :=
  if s.dev = .off then .next s
  else if width = 4 ∧ off % 4 = 0 then .next (s.writeWord off (value.truncate 32))
  else if width = 8 ∧ off % 8 = 0 then
    .next ((s.writeWord off (value.truncate 32)).writeWord (off + 4) (BitVec.ofNat 32 (value.toNat / 2 ^ 32)))
  else .next (s.ignored 5 off)

/-! ### The management bus (R506, R531 to R533) -/

/-- Whether a transport is cut off by a stuck line, or by the loss of its pull-ups with V3P3_PU (R527). Log entry 134:
DEDUCED. -/
def State.cut (s : State) (tr : Transport) : Bool :=
  s.brd.limit.getD 4 false || match tr with
  | .i3c => s.pci.stuck.getD 0 false || s.pci.stuck.getD 1 false
  | .smbus => s.pci.stuck.getD 2 false || s.pci.stuck.getD 3 false

/-- A request on a transport: cut off, or discarded for its PEC, which SMBus alone carries. -/
def State.onBus (s : State) (tr : Transport) (pecOk : Bool) (f : State → State) : State :=
  if s.dev = .off ∨ s.cut tr = true then s
  else if tr = .smbus then
    let t := { s with mgmt := { s.mgmt with badPec := !pecOk } }
    if pecOk then f t else t
  else f s

/-- What the management bus may write (R506). -/
def State.busWrite (s : State) (off : Nat) (data : Word) : State :=
  if off = 0x501010 then (if s.served off && data.getLsbD 31 then s.trigger 1 else s)
  else if off = 0x200004 ∨ off = 0x300000 then s.writeWord off data
  else if off = 0x700048 then (if s.served off && data.getLsbD 31 then after s (s.goQuote true) else s)
  else if 0x7E0000 ≤ off ∧ off + 4 ≤ 0x7E2000 then
    (if s.served off then { s with mgmt := { s.mgmt with box := s.mgmt.box.setBytes (off - 0x7E0000) (leBytes 4 data.toNat) } } else s)
  else s.ignored 6 off

/-- MGMT_BUS_WRITE. Log entry 103: DEDUCED. -/
def execMgmtBusWrite (tr : Transport) (off : Nat) (data : Word) (pecOk : Bool) (s : State) : Host.Outcome State Fault Refusal :=
  .next (s.onBus tr pecOk (fun t => t.busWrite off data))

/-- MGMT_BUS_READ: STATUS and data. An unaligned offset returns the bytes of the containing words. Log entry 103:
DEDUCED. -/
def execMgmtBusRead (tr : Transport) (off : Nat) (pecOk : Bool) (s : State) : Host.Outcome State Fault Refusal :=
  let good := fun (t : State) =>
    if 0x1000000 + 0x10000 * t.nCores ≤ off then { t with reply := 1 :: leBytes 4 0 }
    else
      let (bs, u) := t.readWords (off / 4 * 4) (ceilDiv (off % 4 + 4) 4)
      { u with reply := 0 :: (bs.drop (off % 4)).take 4 }
  let t := s.onBus tr pecOk good
  .next (if s.dev ≠ .off ∧ s.cut tr = false ∧ tr = .smbus ∧ pecOk = false then { t with reply := 2 :: leBytes 4 0 } else t)

/-- I3C_ADDRESS_ASSIGNMENT (R531, R541). -/
def execI3cAddressAssignment (addr : BitVec 7) (s : State) : Host.Outcome State Fault Refusal :=
  .next (if s.dev = .off ∨ s.cut .i3c = true then s else { s with pci := { s.pci with daddr := some addr } })

/-- A line's number in PCI.stuck. -/
def lineOf (tr : Transport) (data : Bool) : Nat := (match tr with | .i3c => 0 | .smbus => 2) + (if data then 1 else 0)

/-- A line's stuck bit changes, with its event. -/
def State.setStuck (s : State) (tr : Transport) (data v : Bool) : State :=
  let i := lineOf tr data
  if s.dev = .off ∨ s.pci.stuck.getD i false = v then s
  else ({ s with pci := { s.pci with stuck := s.pci.stuck.set i v } } : State).ev (if v then 0x6050 else 0x6051)
    (match tr with | .i3c => 0 | .smbus => 1) (if data then 1 else 0)

/-- BUS_LINE_STUCK: held low for 35 ms. -/
def execBusLineStuck (tr : Transport) (data : Bool) (s : State) : Host.Outcome State Fault Refusal := .next (s.setStuck tr data true)

/-- BUS_LINE_RECOVER: high for 100 ms. -/
def execBusLineRecover (tr : Transport) (data : Bool) (s : State) : Host.Outcome State Fault Refusal := .next (s.setStuck tr data false)

end Sys2Proof.Machine
end

