-- ==== Sys2Proof/Machine/Dispatch.lean ====
section
/-! DEFINITION. The effect of each command: one direct call of its meaning. -/
namespace Sys2Proof.Machine

/-- The effect of a command on everything but the queue. Log entry 16: DEDUCED. Log entry 110: DEDUCED. -/
def exec (i : Instr) (s : State) : Host.Outcome State Fault Refusal :=
  match i with
  | .mma c => Sys2Proof.Machine.execMma c s
  | .mew c => Sys2Proof.Machine.execMew c s
  | .lra c => Sys2Proof.Machine.execLra c s
  | .vprog c => Sys2Proof.Machine.execVprog c s
  | .qnt c => Sys2Proof.Machine.execQnt c s
  | .dqt c => Sys2Proof.Machine.execDqt c s
  | .vred c => Sys2Proof.Machine.execVred c s
  | .move c => Sys2Proof.Machine.execMove c s
  | .gath c => Sys2Proof.Machine.execGath c s
  | .dig c => Sys2Proof.Machine.execDig c s
  | .coll c => Sys2Proof.Machine.execColl c s
  | .wait c => Sys2Proof.Machine.execWait c s
  | .signal c => Sys2Proof.Machine.execSignal c s
  | .phase c => Sys2Proof.Machine.execPhase c s
  | .stepCmd h => Sys2Proof.Machine.execStepCmd h s
  | .decideCmd c => Sys2Proof.Machine.execDecideCmd c s
  | .commit h => Sys2Proof.Machine.execCommit h s
  | .snap c host => Sys2Proof.Machine.execSnap c host s
  | .save => Sys2Proof.Machine.execSave s
  | .restore cdig => Sys2Proof.Machine.execRestore cdig s
  | .muteEnd h => Sys2Proof.Machine.execMuteEnd h s
  | .mutePause h => Sys2Proof.Machine.execMutePause h s
  | .commandDispatch => Sys2Proof.Machine.execCommandDispatch s
  | .commandFaultAtIssue => Sys2Proof.Machine.execCommandFaultAtIssue s
  | .commandCompletion obs => Sys2Proof.Machine.execCommandCompletion obs s
  | .decideOutcome => Sys2Proof.Machine.execDecideOutcome s
  | .batchBoundary => Sys2Proof.Machine.execBatchBoundary s
  | .segmentDescriptorFetch data => Sys2Proof.Machine.execSegmentDescriptorFetch data s
  | .segmentDescriptorReread data => Sys2Proof.Machine.execSegmentDescriptorReread data s
  | .commandSegmentFetch data => Sys2Proof.Machine.execCommandSegmentFetch data s
  | .holdBegin votes => Sys2Proof.Machine.execHoldBegin votes s
  | .holdEnd cycles => Sys2Proof.Machine.execHoldEnd cycles s
  | .holdLengthWarning => Sys2Proof.Machine.execHoldLengthWarning s
  | .chunkArrival cidx chunk data dig => Sys2Proof.Machine.execChunkArrival cidx chunk data dig s
  | .firstTouchCopy page => Sys2Proof.Machine.execFirstTouchCopy page s
  | .jobDoorbell value prios => Sys2Proof.Machine.execJobDoorbell value prios s
  | .jobLoadBegin desc => Sys2Proof.Machine.execJobLoadBegin desc s
  | .jobLoadComplete inp => Sys2Proof.Machine.execJobLoadComplete inp s
  | .jobLaunch => Sys2Proof.Machine.execJobLaunch s
  | .abort => Sys2Proof.Machine.execAbort s
  | .pause => Sys2Proof.Machine.execPause s
  | .pauseGrant => Sys2Proof.Machine.execPauseGrant s
  | .resume cdig => Sys2Proof.Machine.execResume cdig s
  | .release => Sys2Proof.Machine.execRelease s
  | .discard => Sys2Proof.Machine.execDiscard s
  | .sliceEnd => Sys2Proof.Machine.execSliceEnd s
  | .jobSigadd value => Sys2Proof.Machine.execJobSigadd value s
  | .jobCrconsWrite value => Sys2Proof.Machine.execJobCrconsWrite value s
  | .jobRingRegisterWrite reg value => Sys2Proof.Machine.execJobRingRegisterWrite reg value s
  | .evtTailWrite value => Sys2Proof.Machine.execEvtTailWrite value s
  | .audJtailWrite value => Sys2Proof.Machine.execAudJtailWrite value s
  | .journalRecordWrite => Sys2Proof.Machine.execJournalRecordWrite s
  | .tableImageLoad value head => Sys2Proof.Machine.execTableImageLoad value head s
  | .tableImageReady adapter img => Sys2Proof.Machine.execTableImageReady adapter img s
  | .maquetteRestore value host img => Sys2Proof.Machine.execMaquetteRestore value host img s
  | .maquetteRestoreComplete pages stepRec => Sys2Proof.Machine.execMaquetteRestoreComplete pages stepRec s
  | .drainPageComplete page => Sys2Proof.Machine.execDrainPageComplete page s
  | .epochComplete => Sys2Proof.Machine.execEpochComplete s
  | .epochFail reason => Sys2Proof.Machine.execEpochFail reason s
  | .computeReset inp => Sys2Proof.Machine.execComputeReset inp s
  | .ckmRstctlWrite value => Sys2Proof.Machine.execCkmRstctlWrite value s
  | .hangDetected => Sys2Proof.Machine.execHangDetected s
  | .waitTimeout => Sys2Proof.Machine.execWaitTimeout s
  | .resetTimeout => Sys2Proof.Machine.execResetTimeout s
  | .audVerdictWrite value => Sys2Proof.Machine.execAudVerdictWrite value s
  | .duoPartnerSilent => Sys2Proof.Machine.execDuoPartnerSilent s
  | .duoRdExchangeComplete rds => Sys2Proof.Machine.execDuoRdExchangeComplete rds s
  | .duoMessageSend => Sys2Proof.Machine.execDuoMessageSend s
  | .dataPacketReceive x => Sys2Proof.Machine.execDataPacketReceive x s
  | .ackPacketReceive p => Sys2Proof.Machine.execAckPacketReceive p s
  | .ackTimer rank => Sys2Proof.Machine.execAckTimer rank s
  | .retransmitTimeout rank psn => Sys2Proof.Machine.execRetransmitTimeout rank psn s
  | .busyPacketReceive p => Sys2Proof.Machine.execBusyPacketReceive p s
  | .flagPacketReceive p => Sys2Proof.Machine.execFlagPacketReceive p s
  | .signalPacketReceive p => Sys2Proof.Machine.execSignalPacketReceive p s
  | .keepaliveSend => Sys2Proof.Machine.execKeepaliveSend s
  | .keepaliveReceive p => Sys2Proof.Machine.execKeepaliveReceive p s
  | .peerSilent rank => Sys2Proof.Machine.execPeerSilent rank s
  | .peerRejoinSettle rank => Sys2Proof.Machine.execPeerRejoinSettle rank s
  | .resyncReceive p => Sys2Proof.Machine.execResyncReceive p s
  | .duoPacketReceive p => Sys2Proof.Machine.execDuoPacketReceive p s
  | .peerRdmaWrite by_ core addr data => Sys2Proof.Machine.execPeerRdmaWrite by_ core addr data s
  | .peerRdmaRead by_ core addr len => Sys2Proof.Machine.execPeerRdmaRead by_ core addr len s
  | .addressResolutionRequest port addr => Sys2Proof.Machine.execAddressResolutionRequest port addr s
  | .congestionNotification port => Sys2Proof.Machine.execCongestionNotification port s
  | .pfcPauseFrame port prio pause => Sys2Proof.Machine.execPfcPauseFrame port prio pause s
  | .ethLinkUp port phy lanes => Sys2Proof.Machine.execEthLinkUp port phy lanes s
  | .ethLinkDown port => Sys2Proof.Machine.execEthLinkDown port s
  | .linkTrainingFail port lanes => Sys2Proof.Machine.execLinkTrainingFail port lanes s
  | .ptpMessage m => Sys2Proof.Machine.execPtpMessage m s
  | .ptpSyncTimeout => Sys2Proof.Machine.execPtpSyncTimeout s
  | .ppsEdge e => Sys2Proof.Machine.execPpsEdge e s
  | .ppsTimeout => Sys2Proof.Machine.execPpsTimeout s
  | .d2dLinkRetry edge => Sys2Proof.Machine.execD2dLinkRetry edge s
  | .hbmRefresh stack bank => Sys2Proof.Machine.execHbmRefresh stack bank s
  | .hbmPatrolScrub addr err => Sys2Proof.Machine.execHbmPatrolScrub addr err s
  | .shardScrubEntry entry misread => Sys2Proof.Machine.execShardScrubEntry entry misread s
  | .bellowsTick r => Sys2Proof.Machine.execBellowsTick r s
  | .slopeIntervalEnd => Sys2Proof.Machine.execSlopeIntervalEnd s
  | .calibrationUpdate meas est => Sys2Proof.Machine.execCalibrationUpdate meas est s
  | .patinaSample codes => Sys2Proof.Machine.execPatinaSample codes s
  | .computeTrip cause reading => Sys2Proof.Machine.execComputeTrip cause reading s
  | .moduleTrip cause reading => Sys2Proof.Machine.execModuleTrip cause reading s
  | .pwrTripClr value inp => Sys2Proof.Machine.execPwrTripClr value inp s
  | .pllLockLoss die alignFails => Sys2Proof.Machine.execPllLockLoss die alignFails s
  | .relockTimeout die => Sys2Proof.Machine.execRelockTimeout die s
  | .powerOn inp => Sys2Proof.Machine.execPowerOn inp s
  | .moduleRestart value inp => Sys2Proof.Machine.execModuleRestart value inp s
  | .firmwareSlotWrite fw read => Sys2Proof.Machine.execFirmwareSlotWrite fw read s
  | .userImageWrite payload read => Sys2Proof.Machine.execUserImageWrite payload read s
  | .userImageErase => Sys2Proof.Machine.execUserImageErase s
  | .svnFloorRaise => Sys2Proof.Machine.execSvnFloorRaise s
  | .flashUpdateComplete fl1Ok fl0Ok => Sys2Proof.Machine.execFlashUpdateComplete fl1Ok fl0Ok s
  | .quoteRequest mgmt nonce rand lrand => Sys2Proof.Machine.execQuoteRequest mgmt nonce rand lrand s
  | .latchingRead r => Sys2Proof.Machine.execLatchingRead r s
  | .registerWrite off width value => Sys2Proof.Machine.execRegisterWrite off width value s
  | .pwrInstatClear value => Sys2Proof.Machine.execPwrInstatClear value s
  | .msixUnmask vec => Sys2Proof.Machine.execMsixUnmask vec s
  | .bar2Read off len => Sys2Proof.Machine.execBar2Read off len s
  | .bar2Write off data => Sys2Proof.Machine.execBar2Write off data s
  | .mgmtBusWrite tr off data pecOk => Sys2Proof.Machine.execMgmtBusWrite tr off data pecOk s
  | .mgmtBusRead tr off pecOk => Sys2Proof.Machine.execMgmtBusRead tr off pecOk s
  | .i3cAddressAssignment addr => Sys2Proof.Machine.execI3cAddressAssignment addr s
  | .busLineStuck tr data => Sys2Proof.Machine.execBusLineStuck tr data s
  | .busLineRecover tr data => Sys2Proof.Machine.execBusLineRecover tr data s
  | .pcieLinkTrained speed width mode => Sys2Proof.Machine.execPcieLinkTrained speed width mode s
  | .pcieReset kind => Sys2Proof.Machine.execPcieReset kind s
  | .d3hotEntry => Sys2Proof.Machine.execD3hotEntry s
  | .inputValid => Sys2Proof.Machine.execInputValid s
  | .inrushTimeout => Sys2Proof.Machine.execInrushTimeout s
  | .inputStageOpen reverse => Sys2Proof.Machine.execInputStageOpen reverse s
  | .inputStageRearm => Sys2Proof.Machine.execInputStageRearm s
  | .reversePolarity => Sys2Proof.Machine.execReversePolarity s
  | .ref25Loss => Sys2Proof.Machine.execRef25Loss s
  | .auxOutputLimit out ma => Sys2Proof.Machine.execAuxOutputLimit out ma s
  | .auxOutputRetry out limited => Sys2Proof.Machine.execAuxOutputRetry out limited s
  | .sensorInputFault inp short => Sys2Proof.Machine.execSensorInputFault inp short s
  | .sensorInputRecover inp => Sys2Proof.Machine.execSensorInputRecover inp s
  | .leakLoopMeasure ohms => Sys2Proof.Machine.execLeakLoopMeasure ohms s
  | .roceResponseReceive cidx ok => Sys2Proof.Machine.execRoceResponseReceive cidx ok s
  | .pcieCompletionTimeout cidx chunk how addr => Sys2Proof.Machine.execPcieCompletionTimeout cidx chunk how addr s
  | .bar2Resize log2 => Sys2Proof.Machine.execBar2Resize log2 s

end Sys2Proof.Machine
end

