-- ==== Sys2Proof/Safety.lean ====
section
/-! DEFINITION. The terms in which claims are made: what a command answers, memories in canonical form, and a running job
whose only outstanding command is one decoded command or one command in flight. -/
namespace Sys2Proof.Machine

/-- The command was taken: the machine neither stopped nor refused it, and the next state has the property. -/
def Answers (o : Host.Outcome State Fault Refusal) (P : State → Prop) : Prop :=
  ∃ t, o = .next t ∧ P t

/-! ### Memories -/

/-- A core's memories are in canonical form. -/
def Core.memsOk (k : Core) : Bool := k.spd.wf && k.lutCur.wf && k.lutNext.wf

/-- The lookup tables that a rejoin puts back are in canonical form. -/
def Resume.memsOk (r : Resume) : Bool := r.luts.all (fun l => l.1.wf && l.2.1.wf)

/-- What a parked job keeps is in canonical form. -/
def Parked.memsOk (p : Parked) : Bool :=
  p.cores.all Core.memsOk && p.rec_.memsOk && (match p.resume with | some r => r.memsOk | none => true)

/-- Every memory of the state is in canonical form (log entry 5). -/
def State.memsOk (s : State) : Bool :=
  s.cores.all Core.memsOk && s.hbm.wf && s.host.wf && s.mgmt.box.wf && s.mqt.remote.all (fun p => p.mem.wf)
    && (match s.rcv.resume with | some r => r.memsOk | none => true)
    && (match s.rcv.parked with | some p => p.memsOk | none => true)

/-- No memory of the machine or of its host differs. -/
def State.SameMems (s t : State) : Prop :=
  t.hbm = s.hbm ∧ t.host = s.host ∧ ∀ c, (t.core c).spd = (s.core c).spd ∧ (t.core c).lutCur = (s.core c).lutCur ∧
    (t.core c).lutNext = (s.core c).lutNext

/-- SIDE of a page (R297). -/
def Cast.sideOf (c : Cast) (p : Nat) : Bool := xor c.inv (decide (p ∈ c.side))

/-- A packet is for the job that is loaded (R326, R327). -/
def State.Admits (s : State) (p : Packet) : Prop :=
  s.dev ≠ .off ∧ s.dev ≠ .booting ∧ p.ver = 1 ∧ s.jobSt ≠ .empty ∧ p.jtag = BitVec.ofNat 32 (s.job.desc.digkey.toNat % 2 ^ 32)

/-- No action of a charge or of Patina waits and no retirement waits for its table. -/
def State.Settled (s : State) : Prop := (∀ g ∈ s.aud.guilt, g.pend = none ∧ g.patina = []) ∧ s.remap.pend = []

/-- A reset or power-on in which alignment and every known-answer test succeed. -/
def cleanReset (i : ResetInput) : Prop := i.alignFails = [] ∧ i.katCores = [] ∧ i.katSpares = []

/-! ### One command alone -/

/-- Nothing but the job's commands falls due: it runs, no completion record waits for room, no fault, stop, boundary
or PHASE effect is outstanding, it replays nothing, no Duo partner holds it, and the stream has not come to its end. -/
def State.Calm (s : State) : Prop :=
  s.jobSt = .running ∧ s.dev = .up ∧ s.clk.stopped = false ∧ s.job.crPend = [] ∧ s.job.stop = none ∧ s.job.bound = false ∧ s.job.kill = none ∧
  s.job.seg.over = none ∧ s.pwr.phase = none ∧ s.duoOn = false ∧ s.duo.pendMis = none ∧
  s.rcv.replayTo = none

/-- A calm job with nothing in flight whose one decoded command is `d`, at or before its planned beat. -/
def State.Alone (s : State) (d : Disp) : Prop :=
  s.Calm ∧ s.job.ending = false ∧ s.job.disp = [d] ∧ s.job.flights = [] ∧ d.bad = none ∧
  s.drn.beat ≤ s.plannedOf d ∧ s.job.lastPlanned ≤ s.plannedOf d

/-- The state at the planned beat of the decoded command `d`, before its checks. -/
def State.dueState (s : State) (d : Disp) : State := s.passBeats (s.plannedOf d)

/-- The command `d` as it waits to issue at its planned beat. -/
def State.planFlight (s : State) (d : Disp) : Flight :=
  (s.dueState d).planned d ((s.dueState d).issuesAs d.cmd) (s.plannedOf d)

/-- The state in which it waits. -/
def State.planState (s : State) (d : Disp) : State := (s.dueState d).plan d []

/-- The checks of R200 and R215 pass at the planned beat, those of R201 at issue, and nothing waits for that
boundary. -/
def State.Passes (s : State) (d : Disp) : Prop :=
  s.asked = false ∧
  (s.dueState d).planChk d (s.plannedOf d) = none ∧
  (s.planState d).chkIssue d.idx ((s.planFlight d).core.getD 0) (s.planFlight d).cmd = none

/-- The contract latency of the decoded command `d` at its planned beat (R182). -/
def State.latAt (s : State) (d : Disp) : Nat := (s.planState d).latency d.idx ((s.planFlight d).core.getD 0) (s.planFlight d).cmd

/-- The completion beat of the decoded command `d` when nothing stands before it: its latency, and the beats it loses to
banks (R182, R140; log entry 2). -/
def State.endsAt (s : State) (d : Disp) : Nat := s.plannedOf d + s.latAt d + ((s.planState d).bankLoss (s.planFlight d) (s.latAt d)).total

/-- In `t` the command of `d` has issued at its planned beat as the one flight `f`, and no memory has changed. -/
def State.Issued (s t : State) (d : Disp) (f : Flight) : Prop :=
  t.drn.beat = s.plannedOf d ∧ t.job.disp = [] ∧ t.job.flights = [f] ∧ f.idx = d.idx ∧ f.cmd = d.cmd ∧ f.issued = true ∧
  f.issue = s.plannedOf d ∧ f.compl = s.endsAt d ∧ t.cores = s.cores ∧ t.hbm = s.hbm ∧ t.host = s.host

/-- A calm job whose one command in flight is `f`, issued, at its completion beat, with all that it waits for; it has
read no line that the patrol found uncorrectable, and what is decoded behind it lies at later beats, as far as the stream
has not ended. -/
def State.Completing (s : State) (f : Flight) : Prop :=
  s.Calm ∧ s.asked = false ∧ s.retireBlocked f = false ∧ f.note faultKey = none ∧ f.dead = [] ∧ s.foundBad f = [] ∧
  (∀ d ∈ s.job.disp, f.idx < d.idx ∧ s.drn.beat < s.plannedOf d) ∧ (∀ l, s.streamLimit = some l → s.drn.beat < l) ∧
  s.job.flights = [f] ∧ f.issued = true ∧ f.compl = s.drn.beat

/-- A device command as its row of the table; SNAP takes its target entry besides, and SAVE and RESTORE are no
commands of a stream (R227). -/
def rowOf : Cmd → Option Instr
  | .mma c => some (.mma c) | .mew c => some (.mew c) | .lra c => some (.lra c) | .vprog c => some (.vprog c)
  | .qnt c => some (.qnt c) | .dqt c => some (.dqt c) | .vred c => some (.vred c) | .move c => some (.move c)
  | .gath c => some (.gath c) | .dig c => some (.dig c) | .coll c => some (.coll c) | .wait c => some (.wait c)
  | .signal c => some (.signal c) | .phase c => some (.phase c) | .stepc h => some (.stepCmd h)
  | .decide c => some (.decideCmd c) | .commit h => some (.commit h) | .mute h false => some (.muteEnd h)
  | .mute h true => some (.mutePause h)
  | .snap _ | .save _ _ | .restore _ _ => none

/-- The commands that the compute units execute (R216). -/
def computes (c : Cmd) : Bool := c.queue == .mxq || c.queue == .vxq || c.queue == .rdq

end Sys2Proof.Machine
end

