-- ==== Sys2Proof/Certificates/Slice0/Obligations.lean ====
section
/-! DEFINITION. The statements about the device. Each docstring names the rules it follows; where a statement rests on a
choice of the model, it names the log entry. `State.Alone` (a running job whose one outstanding command is decoded, with
nothing else due) and `State.Completing` (its one command in flight stands at its completion beat) are defined in
Sys2Proof/Safety.lean. -/
open Sys2Proof Sys2Proof.Machine

/-! ### The block and its queue -/

/-- A step takes the command at the front of the queue and runs it with the queue's rest; on an empty queue the block
idles (log entry 8). -/
def Obligations.StepRunsFrontCommand : Prop :=
  (∀ (c : Instr) (rest : List Instr) (s : State),
    step { s with pending := c :: rest } = exec c { s with pending := rest }) ∧
  ∀ s : State, s.pending = [] → step s = .next s

/-- No command stops the block or is refused by it.
Rests on the model's choices of log entry 16. -/
def Obligations.EveryCommandAnswers : Prop :=
  ∀ (i : Instr) (s : State), ∃ t, exec i s = .next t

/-- What reset leaves (R204, R220, R507, R508, R515): the device is BOOTING, no job is loaded, registers stand at their
Reset columns, every MSI-X vector is masked and not pending, no event is logged and no memory lists a byte.
Rests on the model's choices of log entries 5, 6, 13 and 14. -/
def Obligations.ResetState : Prop :=
  let s := State.reset
  s.pending = [] ∧ s.devst = 1 ∧ s.jobSt = .empty ∧ s.drn.warn = 0x000CF850 ∧ s.drn.core = 0xFF ∧ s.evt.irqen = 0x0FFE ∧
  s.evt.head = 0 ∧ s.evt.tail = 0 ∧ s.msix.length = 7 ∧ (∀ v ∈ s.msix, v.mask = true ∧ v.pend = false) ∧
  s.ring.fltIdx = noIdx ∧ s.pci.b2log2 = 36 ∧ s.hbm = [] ∧ s.host = [] ∧ s.cores.length = 192 ∧ ∀ k ∈ s.cores, k.spd = []

/-- The memories of the reset state are in canonical form.
Rests on the model's choices of log entry 5. -/
def Obligations.ResetMemoriesCanonical : Prop := State.reset.memsOk = true

/-- Every step keeps every memory of the machine in canonical form: scratchpads with their accumulators, lookup tables,
HBM, what was written to host memory and to drain targets, the quote mailbox, staged pages, and what a parked job and the
resume record keep.
Rests on the model's choices of log entry 5. -/
def Obligations.StepKeepsMemoriesCanonical : Prop :=
  ∀ s t : State, s.memsOk = true → step s = .next t → t.memsOk = true

/-! ### Command words -/

/-- A command's words decode to the command they were written from, with every field at every value (R213 to R218). -/
def Obligations.DecodeEncode : Prop := ∀ c : Cmd, decodeCmd (encodeCmd c) = .ok c

/-- A reserved opcode is no command, and the fault names the OPCODE field (R215, R216). -/
def Obligations.ReservedOpcode : Prop :=
  ∀ ws : List Word, bodyFields (fieldOf ws (0, 31, 24)) = none → decodeCmd ws = .error (fieldAt 0 31 24)

/-- A set bit that no field of the command covers makes its words no command, and the fault names the reserved field that
holds the bit (R213, R215). -/
def Obligations.ReservedFieldSet : Prop :=
  ∀ (c : Cmd) (w b : Nat), w < 32 → b < 32 →
    (∀ f ∈ headerFields ++ (bodyFields c.opcode).getD [], ¬(f.1 = w ∧ f.2.2 ≤ b ∧ b ≤ f.2.1)) →
    ∃ f, decodeCmd ((encodeCmd c).set w ((encodeCmd c).getD w 0 ||| BitVec.ofNat 32 (2 ^ b))) = .error f ∧
      f.word = w ∧ f.bit ≤ b ∧ b ≤ f.bit + f.wid

/-! ### The stream -/

/-- COMMAND_DISPATCH decodes the next fetched command and changes nothing but the job's position, at most 8,192 commands
ahead of the earliest unissued one; further ahead it changes nothing (R189, R211).
Rests on the model's choices of log entries 13 and 20. -/
def Obligations.DispatchDecodesNext : Prop :=
  (∀ (s : State) (d : Disp) (x : SegSt), s.fetched = some (d, x) → s.takes = true →
    exec .commandDispatch s = .next { s with job := { s.job with
      disp := s.job.disp ++ [d], next := s.job.next + 1, seg := x } }) ∧
  ∀ s : State, s.nextIssue + 8192 ≤ s.job.next → exec .commandDispatch s = .next s

/-- A compute command (MMA, MEW, LRA, VPROG, QNT, DQT, VRED) with nothing before it issues at its planned beat,
completes after its latency, holds its result as the values at its issue give it (R182, R192), and changes no memory
before its completion. Rests on the model's choices of log entries 2 and 20. -/
def Obligations.ComputeCommandIssues : Prop :=
  ∀ (s : State) (d : Disp) (i : Instr), s.Alone d → s.Passes d → computes d.cmd = true → rowOf d.cmd = some i →
    ∃ t f, exec i s = .next t ∧ s.Issued t d f ∧ f.need = 0 ∧ f.dead = [] ∧
      f.eff = (s.planState d).kept (s.planFlight d)
        ((s.planState d).computeEff d.idx ((s.planFlight d).core.getD 0) d.cmd).writes

/-- At its completion beat the results of a compute command become visible, each byte where its effect places it and
nowhere else, and it is in flight no longer (R182).
Rests on the model's choices of log entry 20. -/
def Obligations.ComputeCommandCompletes : Prop :=
  ∀ (s : State) (f : Flight), s.Completing f → computes f.cmd = true →
    ∃ t, exec (.commandCompletion []) s = .next t ∧ t.drn.beat = s.drn.beat ∧ t.job.flights = [] ∧
      (∀ c, (t.core c).spd = ((s.stores f.eff).core c).spd) ∧ t.hbm = (s.stores f.eff).hbm

/-- A MOVE, GATH or DIG with nothing before it issues at its planned beat and completes after its latency; a source
within the module gives its effect at once, a source outside it is awaited chunk by chunk (R159, R182, R184, R192). A
shard MOVE opens its load, and awaits its chunks where the manifest has its entry and its header keeps R303 (R303, R304).
Rests on the model's choices of log entries 2, 20 and 65. -/
def Obligations.TransferCommandIssues : Prop :=
  ∀ (s : State) (d : Disp) (i : Instr), s.Alone d → s.Passes d → rowOf d.cmd = some i →
    (match d.cmd with | .move _ | .gath _ | .dig _ => True | _ => False) →
    let v := s.planState d
    let x := s.planFlight d
    let chunks := if v.fromOutside d.cmd then v.chunkNeed d.cmd else 0
    ∃ t f, exec i s = .next t ∧ t.drn.beat = s.plannedOf d ∧ t.job.disp = [] ∧ t.job.flights = [f] ∧ f.idx = d.idx ∧
      f.cmd = d.cmd ∧ f.issued = true ∧ f.issue = s.plannedOf d ∧ f.compl = s.endsAt d ∧
      f.eff = v.kept x (v.effAt d.idx (x.core.getD 0) d.cmd).writes ∧ (∀ c, (t.core c).spd = (s.core c).spd) ∧
      ((∀ c, d.cmd = .move c → c.shard = false) → f.need = chunks ∧ t.hbm = s.hbm ∧ t.host = s.host) ∧
      ∀ c, d.cmd = .move c → c.shard = true → t.hbm = v.openLoad.hbm ∧ t.cast.loadOpen = true ∧
        f.need = (if (v.openLoad.findShard (aOff c.daddr.toNat) (c.rows * c.rowbytes.toNat)).isSome = true ∧ v.openLoad.cast.badHdr = false
          then chunks else 0)

/-- A COLL with nothing before it issues at its planned beat; one of the step's compute or exchange part enters
EXCHANGE from COMPUTE (R225), and the digest and finite flag of its contribution enter the step's journal (R252,
R366). Alone in its group it has its result at once, and a member of several keeps its contribution for the others
(R331, R335). At its completion beat the bytes that the collective delivers become visible where its destination
resolved at issue. Rests on the model's choices of log entries 2 and 20. -/
def Obligations.CollIssues : Prop :=
  (∀ (s : State) (d : Disp) (c : CollCmd), s.Alone d → s.Passes d → d.cmd = .coll c →
    let v := s.planState d
    let own := (s.planFlight d).core.getD 0
    let mine := v.contribution d.idx own c
    let fin := !mine.isEmpty && finFlag (tfOr c.fb).fmt c.count.toNat mine
    let conly := bitAt s.job.rplCtl.toNat 2
    ∃ t f, exec (.coll c) s = .next t ∧ t.drn.beat = s.plannedOf d ∧ t.job.disp = [] ∧ t.job.flights = [f] ∧ f.idx = d.idx ∧
      f.cmd = d.cmd ∧ f.issued = true ∧ f.issue = s.plannedOf d ∧ f.compl = s.endsAt d ∧
      t.job.phase = (if s.job.phase = 1 ∧ s.job.stepIdx ≤ d.idx ∧ (s.job.part = .compute ∨ s.job.part = .exchange) then 2 else s.job.phase) ∧
      (∃ e ∈ t.job.jrn.entries, e.etype = 0x13 ∧ e.lcore = c.hdr.lcore.toNat ∧ e.argw = BitVec.ofNat 32 (if fin then 1 else 0) ∧
        e.arg = BitVec.ofNat 64 mine.length ∧ e.dig = BitVec.ofNat 64 (v.pdChunks mine)) ∧
      t.job.dec.colFlag = (s.job.dec.colFlag || fin) ∧
      (conly = true → f.eff = []) ∧
      (conly = false → (v.collCtx c).n ≤ 1 → f.eff = v.kept (s.planFlight d) (v.collAlone own c mine).writes) ∧
      (conly = false → 1 < (v.collCtx c).n → f.eff = [] ∧ f.got = [(0, mine)]) ∧
      t.hbm = s.hbm ∧ t.host = s.host ∧ ∀ k, (t.core k).spd = (s.core k).spd) ∧
  ∀ (s : State) (f : Flight) (c : CollCmd), s.Completing f → f.cmd = .coll c → f.need = 0 → s.collDead f.idx = false →
    let ws := if (s.collCtx c).n ≤ 1 ∨ bitAt s.job.rplCtl.toNat 2 = true then f.eff else
      match s.collResult f.idx c ((f.got.head?.map (fun g => g.2)).getD []) with
      | some r => s.kept f (s.collInto (f.core.getD 0) c f.dst r.1)
      | none => []
    ∃ t, exec (.commandCompletion []) s = .next t ∧ t.drn.beat = s.drn.beat ∧ t.job.flights = [] ∧
      (∀ k, (t.core k).spd = ((s.stores ws).core k).spd) ∧ t.hbm = (s.stores ws).hbm

/-- A WAIT issues at its planned beat once (counter CTR − VALUE) mod 2^32 is below 2^31, and stays unissued there while it
is not; it feeds nothing into any memory (R219).
Rests on the model's choices of log entries 20 and 21. -/
def Obligations.WaitIssuesOnItsCondition : Prop :=
  ∀ (s : State) (d : Disp) (c : WaitCmd), s.Alone d → s.Passes d → d.cmd = .wait c →
    ((s.job.sigs.getD c.ctr.toNat 0 - c.value).toNat < 2 ^ 31 →
      ∃ t f, exec (.wait c) s = .next t ∧ s.Issued t d f ∧ t.job.sigs = s.job.sigs) ∧
    (2 ^ 31 ≤ (s.job.sigs.getD c.ctr.toNat 0 - c.value).toNat →
      ∃ t f, exec (.wait c) s = .next t ∧ t.drn.beat = s.plannedOf d ∧ t.job.flights = [f] ∧ f.idx = d.idx ∧
        f.issued = false ∧ t.cores = s.cores ∧ t.hbm = s.hbm ∧ t.host = s.host)

/-- A SIGNAL issues at its planned beat without an effect there, and at its completion beat, one beat later, with TGT 0x1
writes VALUE as a 32-bit word at HADDR in host memory and raises MSI-X vector 0, and with TGT 0x2 to this rank adds VALUE
to counter CTR, and to another rank sends it a SIGNAL packet (R219, R339). With CREC its completion record follows.
Rests on the model's choices of log entries 20, 23 and 54. -/
def Obligations.SignalActsAtItsCompletion : Prop :=
  (∀ (s : State) (d : Disp) (c : SignalCmd), s.Alone d → s.Passes d → d.cmd = .signal c →
    ∃ t f, exec (.signal c) s = .next t ∧ s.Issued t d f ∧ f.compl = f.issue + 1 ∧ f.eff = [] ∧ f.flags = 0 ∧ f.ckf = false ∧
      f.need = 0 ∧ t.job.sigs = s.job.sigs ∧ t.net = s.net ∧ t.sent = s.sent) ∧
  ∀ (s : State) (f : Flight) (c : SignalCmd), s.Completing f → f.cmd = .signal c → f.queue = .ctl → f.eff = [] →
      f.flags = 0 → f.ckf = false → f.need = 0 →
    let recorded := fun (u : State) => if c.hdr.crec then u.putRec (s.recOf f) else u
    ∃ t, exec (.commandCompletion []) s = .next t ∧ t.job.flights = [] ∧ t.hbm = s.hbm ∧
      (c.tgt = 1 →
        let u := recorded ((s.storeOrdered c.haddr.toNat (leBytes 4 c.value.toNat)).irq 0)
        t.host = u.host ∧ t.sent = u.sent ∧ t.msix = u.msix ∧ t.job.sigs = s.job.sigs ∧ t.net = s.net) ∧
      (c.tgt ≠ 1 → t.host = (recorded s).host ∧
        (c.rank.toNat = s.job.desc.rank → t.net = s.net ∧ t.job.sigs = upd s.job.sigs c.ctr.toNat (· + c.value)) ∧
        (c.rank.toNat ≠ s.job.desc.rank → t.job.sigs = s.job.sigs ∧
          t.net = (s.send c.rank.toNat { s.packet 4 c.rank.toNat (s.stepWord f.idx) (s.cmdWord f.idx) with
            cdig := BitVec.ofNat 64 (c.ctr.toNat * 2 ^ 32 + c.value.toNat) }).net))

/-- A PHASE issues at its planned beat and names its effect beat, LEAD beats later, with its operating point and class; in
mode 0 of field 0x0403 its class goes to the regulators at once. With LEAD zero the effect is taken at once: in mode 1 it
puts the point in force, and else it sets the class and the cap limit for it (R439 to R442).
Rests on the model's choices of log entries 20 and 79. -/
def Obligations.PhaseNamesItsEffectBeat : Prop :=
  ∀ (s : State) (d : Disp) (c : PhaseCmd), s.Alone d → s.Passes d → d.cmd = .phase c →
    ∃ t f, exec (.phase c) s = .next t ∧ s.Issued t d f ∧
      (s.cfg 0x0403 = 0 → t.pwr.vrcls = c.iclass.toNat) ∧
      (c.lead ≠ 0 → t.pwr.phase = some ⟨s.plannedOf d + c.lead.toNat, c.opt.toNat, c.iclass.toNat⟩ ∧
        t.pwr.opent = s.pwr.opent ∧ t.pwr.cls = s.pwr.cls ∧ t.pwr.ilim = s.pwr.ilim ∧ t.pwr.iguide = s.pwr.iguide) ∧
      (c.lead = 0 → t.pwr.phase = none ∧
        (s.cfg 0x0403 = 1 → t.pwr.opent = c.opt.toNat ∧ t.pwr.iguide = (s.putPoint c.opt.toNat).pwr.iguide ∧
          t.pwr.vrcls = (s.putPoint c.opt.toNat).pwr.vrcls) ∧
        (s.cfg 0x0403 ≠ 1 → t.pwr.cls = c.iclass.toNat ∧
          t.pwr.ilim = (match s.pwr.nc with | some l => s.capLimit (l.getD c.iclass.toNat 0) | none => s.pwr.ilim)))

/-- A STEP whose step's records find room in the journal opens the next step at its issue beat: the step's number, its
frame's base, COMPUTE, an open journal, and the resume record that names it (R225, R249, R391). Where a restore is to be
verified there, it is verified first (R400).
Rests on the model's choices of log entries 20 and 24. -/
def Obligations.StepOpensFrame : Prop :=
  ∀ (s : State) (d : Disp) (h : Hdr), s.Alone d → s.Passes d → d.cmd = .stepc h →
    let w := (s.planState d).closeFor false (s.planFlight d) (s.plannedOf d)
    let w := if w.verifies then w.verifyRestore d.idx else w
    w.job.jrn.waiting = [] → w.job.stop = none →
    ∃ t f, exec (.stepCmd h) s = .next t ∧ t.drn.beat = s.plannedOf d ∧ t.job.flights = [f] ∧ f.idx = d.idx ∧
      f.issued = true ∧ f.issue = s.plannedOf d ∧ t.job.jrn.closed = false ∧ t.mqt.rstAcc = w.mqt.rstAcc ∧
      t.job.step = some (match s.job.step with | some n => n + 1 | none => 0) ∧ t.job.stepIdx = d.idx ∧
      t.job.frame = s.plannedOf d ∧ t.job.phase = 1 ∧ ∃ r, t.rcv.resume = some r ∧ r.stepIdx = d.idx ∧ r.frame = s.plannedOf d

/-- A DECIDE issues at its planned beat, enters DECIDE, and forms the local flag L from its decide block's two words, each
unset at either zero, and the step's finite flags; the flag is kept with those of its peers (R225, R274). Under CONLY it
is a MUTE END, and the step's record is cut (R259).
Rests on the model's choices of log entries 20 and 69. -/
def Obligations.DecideFormsLocalFlag : Prop :=
  ∀ (s : State) (d : Disp) (c : DecideCmd), s.Alone d → s.Passes d → d.cmd = .decide c →
    (bitAt s.job.rplCtl.toNat 2 = false →
      let rd := (s.planState d).reader d.idx ((s.planState d).logical c.fcore.toNat)
      let bad := fun (a : Nat) => leNat rd a 4 ≠ 0 ∧ leNat rd a 4 ≠ 0x80000000
      ∃ t f x, exec (.decideCmd c) s = .next t ∧ t.drn.beat = s.plannedOf d ∧ t.job.flights = [f] ∧ f.idx = d.idx ∧
        f.cmd = d.cmd ∧ f.issued = true ∧ f.issue = s.plannedOf d ∧ f.eff = [] ∧ f.need = 0 ∧ t.job.phase = 3 ∧ x ∈ t.net.flagRx ∧
        x.rank = s.job.desc.rank ∧ x.stepw = s.stepWord d.idx ∧
        (x.l = true ↔ bad c.faddr.toNat ∨ bad (c.faddr.toNat + 4) ∨ s.job.dec.colFlag = true) ∧
        (f.aux.getLsbD 0 = x.l) ∧ t.hbm = s.hbm ∧ t.host = s.host ∧ t.cores = s.cores) ∧
    (bitAt s.job.rplCtl.toNat 2 = true →
      let n := if s.job.jrn.closed then s.planState d else (s.planState d).notePass (s.planFlight d)
      let w := n.closeFor (s.job.part == .compute || s.job.part == .exchange) (s.planFlight d) (s.plannedOf d)
      w.job.jrn.waiting = [] → w.job.stop = none →
      ∃ t f, exec (.decideCmd c) s = .next t ∧ t.drn.beat = s.plannedOf d ∧ t.job.flights = [f] ∧ f.idx = d.idx ∧
        f.cmd = .mute c.hdr false ∧ f.issued = true ∧ f.issue = s.plannedOf d ∧ t.job.phase = s.job.phase ∧ t.job.jrn.closed = true ∧
        t.net = w.net ∧ t.hbm = w.hbm ∧ t.cores = s.cores)

/-- DECIDE_OUTCOME: with every flag here, the step's outcome is SKIP when this rank's flag or any peer's is set, and
JOB_SKIPRUN and JOB_SKIPTOT follow it (R274 to R276).
Rests on the model's choices of log entries 20 and 69. -/
def Obligations.DecideOutcomeTakesEffect : Prop :=
  ∀ (s : State) (f : Flight) (c : DecideCmd), s.Completing f → f.cmd = .decide c → f.need = 0 → f.eff = [] →
    let o := f.aux.getLsbD 0 || (s.stepFlags f.idx).any (fun x => x.l)
    ∃ t, exec .decideOutcome s = .next t ∧ t.job.flights = [] ∧ t.job.dec.skip = o ∧ t.job.dec.localL = f.aux.getLsbD 0 ∧
      t.job.dec.skipRun.toNat = (if o then satAdd 32 s.job.dec.skipRun.toNat 1 else 0) ∧
      t.job.dec.skipTot.toNat = (if o then satAdd 32 s.job.dec.skipTot.toNat 1 else s.job.dec.skipTot.toNat) ∧
      t.job.phase = 4

/-- A COMMIT issues at its planned beat with a latency of 16 beats (R182). At its completion, on UPDATE P inverts
and so does SIDE of every page that is not in TOUCH, on SKIP both stand, and with room for its record and its tables
ready TOUCH is cleared with it (R298); the step counts as committed. -/
def Obligations.CommitSwitchesCast : Prop :=
  (∀ (s : State) (d : Disp) (h : Hdr), s.Alone d → s.Passes d → d.cmd = .commit h →
    (s.planState d).commitBad (s.planFlight d) = false →
    ∃ t f, exec (.commit h) s = .next t ∧ s.Issued t d f ∧ f.compl = s.plannedOf d + 16 ∧ f.eff = [] ∧ f.need = 0) ∧
  ∀ (s : State) (f : Flight) (h : Hdr), s.Completing f → f.cmd = .commit h → f.need = 0 → f.eff = [] →
    let skip := s.skipOf f.idx
    ∃ t, exec (.commandCompletion []) s = .next t ∧ t.job.flights = [] ∧ t.job.commits = s.job.commits + 1 ∧
      t.cast.p = xor s.cast.p (!skip) ∧
      (∀ p, t.cast.sideOf p = xor (s.cast.sideOf p) (!skip && !decide (p ∈ s.cast.touch))) ∧
      (s.crRoom = true → s.tablesReady (s.stepWord f.idx) = true → t.cast.touch = []) ∧
      t.cast.nswitch = (if skip then s.cast.nswitch else s.cast.nswitch + 1)

/-- BATCH_BOUNDARY: a boundary that is due, alone at its beat and with its tables ready, is taken: TOUCH and the
open load end there, and the tables that are ready and due at the COMMIT's step come into force, host-loaded and
lookup tables alike; it waits while a table is late (R291, R297, R313). Rests on the model's choices of log entry
51. -/
def Obligations.BatchBoundaryTaken : Prop :=
  ∀ (s : State), ({ s with job := { s.job with bound := false } } : State).Calm → s.job.bound = true →
    s.job.flights = [] → (∀ d ∈ s.job.disp, s.drn.beat < s.plannedOf d ∧ s.job.boundIdx ≠ some d.idx) →
    ((∃ i, s.job.boundIdx = some i ∧ s.tablesReady (s.stepWord i) = false) → exec .batchBoundary s = .next s) ∧
    ((∀ i, s.job.boundIdx = some i → s.tablesReady (s.stepWord i) = true) →
      ∃ t, exec .batchBoundary s = .next t ∧ t.job.bound = false ∧
        t.cast = { s.cast with touch := [], loadOpen := false, badHdr := false } ∧
        t.pat = (match s.job.boundIdx with | some i => s.pat.turn s.job.step (s.stepWord i) | none => s.pat) ∧
        t.adt = (match s.job.boundIdx with | some i => s.adt.turn s.job.step (s.stepWord i) | none => s.adt) ∧
        ∀ c, (t.core c).lutCur = (if s.job.boundIdx.isSome && (s.core c).lutRdy then (s.core c).lutNext else (s.core c).lutCur))

/-- MUTE END and MUTE PAUSE issue at their planned beat, MUTE END with its step's records formed and with room in the
journal, and at their completion the job is DONE or PAUSED (R220, R221, R249).
Rests on the model's choices of log entry 20. -/
def Obligations.MuteEndsOrPauses : Prop :=
  (∀ (s : State) (d : Disp) (h : Hdr), s.Alone d → s.Passes d → d.cmd = .mute h true →
    ∃ t f, exec (.mutePause h) s = .next t ∧ s.Issued t d f ∧ f.need = 0) ∧
  (∀ (s : State) (d : Disp) (h : Hdr), s.Alone d → s.Passes d → d.cmd = .mute h false →
    let n := if s.job.jrn.closed then s.planState d else (s.planState d).notePass (s.planFlight d)
    let w := n.closeFor (bitAt s.job.rplCtl.toNat 2 && (s.job.part == .compute || s.job.part == .exchange)) (s.planFlight d) (s.plannedOf d)
    w.job.jrn.waiting = [] → w.job.stop = none →
    ∃ t f, exec (.muteEnd h) s = .next t ∧ t.drn.beat = s.plannedOf d ∧ t.job.disp = [] ∧ t.job.flights = [f] ∧ f.idx = d.idx ∧
      f.cmd = d.cmd ∧ f.issued = true ∧ f.issue = s.plannedOf d ∧ f.compl = s.endsAt d ∧ f.need = 0 ∧ t.job.jrn.closed = true ∧
      t.cores = s.cores ∧ t.hbm = w.hbm) ∧
  ∀ (s : State) (f : Flight) (h : Hdr) (p : Bool), s.Completing f → f.cmd = .mute h p → f.need = 0 →
    ∃ t, exec (.commandCompletion []) s = .next t ∧ t.jobSt = (if p then .paused else .done) ∧ t.job.flights = []

/-- SNAP reads its target entry and, with no epoch open and a target that has room, opens one at its issue beat: the
Cast's pages in force become the epoch's and are write-protected (R392 to R394). A target without room or of a
reserved kind fails the epoch at once, and a SNAP that finds an epoch open drops its own (R392). Rests on the
model's choices of log entry 20. -/
def Obligations.SnapOpensEpoch : Prop :=
  ∀ (s : State) (d : Disp) (c : SnapCmd) (host : HostMem), s.Alone d → s.Passes d → d.cmd = .snap c →
    let tgt := s.readTarget host (c.dtgt.toNat % 4)
    let room := imageLen s.castPages ≤ tgt.len.toNat ∧ tgt.kind.toNat ≤ 1
    ∃ t f, exec (.snap c host) s = .next t ∧ t.job.flights = [f] ∧ f.idx = d.idx ∧ f.issued = true ∧ f.issue = s.plannedOf d ∧
      t.hbm = s.hbm ∧ t.cores = s.cores ∧
      (s.mqt.epoch = none → room → ∃ e, t.mqt.epoch = some e ∧ e.epoch = c.epoch ∧ e.target = tgt ∧ e.pages = s.captured ∧
        e.done = [] ∧ e.staged = [] ∧ e.castRec = castRecord s.cast s.castPages ∧ t.wp = s.captured) ∧
      (s.mqt.epoch = none → ¬room → t.mqt.epoch = none ∧ t.mqt.lastEpoch = c.epoch ∧ t.mqt.lastFail = true ∧
        t.mqt.lastDone = false ∧ t.wp = s.wp) ∧
      ∀ e, s.mqt.epoch = some e → t.mqt = s.mqt ∧ t.wp = s.wp

/-- COMMAND_FAULT_AT_ISSUE: a command that fails a check never issues. With nothing before it the job is FAULTED at
once, and its index and the check's code are the fault location and code (R201, R223).
Rests on the model's choices of log entries 10, 19 and 20. -/
def Obligations.FailedCheckFaultsJob : Prop :=
  ∀ (s : State) (d : Disp) (e : Nat × FieldRef × Nat × Nat), s.Alone d → s.ring.fltCode = 0 → s.asked = false →
    d.idx < 2 ^ 64 → (s.dueState d).planChk d (s.plannedOf d) = some e →
    ∃ t, exec .commandFaultAtIssue s = .next t ∧ t.jobSt = .faulted ∧ t.job.flights = [] ∧ t.ring.fltIdx.toNat = d.idx ∧
      t.ring.fltCode = BitVec.ofNat 16 e.1

/-- PAUSE_GRANT: a PAUSE or a pre-emption that waits is granted at the next command boundary, once a command behind it has
been decoded or the stream ends with it; the command there has not issued and the beat stands (R210, R412).
Rests on the model's choices of log entry 20. -/
def Obligations.PauseGrantedAtBoundary : Prop :=
  ∀ (s : State) (d : Disp) (rest : List Disp), s.Calm → s.job.ending = false → s.job.disp = d :: rest → s.job.flights = [] →
    d.bad = none → s.drn.beat ≤ s.plannedOf d → s.job.lastPlanned ≤ s.plannedOf d → (∀ e ∈ rest, d.idx < e.idx) →
    (∀ l, s.streamLimit = some l → s.plannedOf d < l) → s.asked = true → (s.dueState d).planChk d (s.plannedOf d) = none →
    ∃ t f, exec .pauseGrant s = .next t ∧ t.jobSt = .paused ∧ t.job.pausePend = false ∧ t.drn.beat = s.plannedOf d ∧
      t.job.flights = [f] ∧ f.idx = d.idx ∧ f.issued = false ∧ t.job.disp = rest

/-! ### Events, interrupts and rings -/

/-- The event log (R514, R515). With room a record is written at the head, with LOST set where records were dropped
before it, and raises MSI-X vector 1 where EVT_IRQEN enables its class; while 4,096 wait it is dropped and counted; its
class count rises either way. The host may move EVT_TAIL forward up to EVT_HEAD and nowhere else. -/
def Obligations.EventLog : Prop :=
  (∀ (e : Evt) (r : EvRec),
    (e.add r).cnt = upd e.cnt (r.code / 4096 % 16) (fun c => BitVec.ofNat 32 (min (c.toNat + 1) (2 ^ 32 - 1))) ∧
    ((e.head - e.tail).toNat = 4096 → (e.add r).head = e.head ∧ (e.add r).log = e.log ∧
      (e.add r).lostCnt.toNat = min (e.lostCnt.toNat + 1) (2 ^ 32 - 1) ∧ (e.add r).gap = true) ∧
    ((e.head - e.tail).toNat ≠ 4096 → (e.add r).head = e.head + 1 ∧ (e.add r).gap = false ∧ (e.add r).lostCnt = e.lostCnt ∧
      (e.add r).log.getLast? = some (e.head.toNat, { r with lost := e.gap }))) ∧
  (∀ (s : State) (c a b : Nat),
    let r : EvRec := ⟨c, 0xFF, false, 0, FieldRef.nil, noIdx, s.drn.beat, s.ptp.wall, BitVec.ofNat 64 a, BitVec.ofNat 64 b⟩
    let t := { s with evt := s.evt.add r }
    s.ev c a b = if (s.evt.head - s.evt.tail).toNat ≠ 4096 ∧ s.evt.irqen.getLsbD (c / 4096 % 16) = true then t.irq 1 else t) ∧
  ∀ (s : State) (v : Word), s.dev ≠ .off →
    exec (.evtTailWrite v) s = .next (if (v - s.evt.tail).toNat ≤ (s.evt.head - s.evt.tail).toNat then
      { s with evt := { s.evt with tail := v } } else s.ev 0x9017 4 0x200004)

/-- One occurrence of an MSI-X vector sends its message, or sets its PBA bit while it is masked or MSI-X is not enabled;
unmasking a pending vector sends the message once MSI-X is enabled; in recovery mode the vectors do not answer (R484,
R509). Rests on the model's choices of log entry 132. -/
def Obligations.MsixVectors : Prop :=
  (∀ (s : State) (v : Nat) (e : Vector), s.msix[v]? = some e →
    s.irq v = if e.mask = true ∨ s.pci.cfg.msix = false then { s with msix := s.msix.set v { e with pend := true } } else { s with sent := s.sent ++ [.msix v] }) ∧
  ∀ (s : State) (v : Nat) (e : Vector), s.dev ≠ .off → s.msix[v]? = some e →
    let sends := e.pend && s.pci.cfg.msix
    (s.pln.recov = true → exec (.msixUnmask v) s = .next s) ∧
    (s.pln.recov = false → exec (.msixUnmask v) s = .next { s with
      msix := s.msix.set v { e with mask := false, pend := e.pend && !sends }
      sent := if sends then s.sent ++ [.msix v] else s.sent })

/-- The job ring (R510): a doorbell announces descriptors up to its producer index, or is ignored with 0x9017, reason
1, where the ring is too small or the index moves back; base and size may be written only while the ring rests, which
zeroes the indices. A doorbell with a higher PRIO asks a running job for a pre-emption (R222). In recovery mode none of
these registers is served (R484). -/
def Obligations.JobRing : Prop :=
  (∀ (s : State) (v : Word) (prios : List (BitVec 4)),
    let p : Half := v.truncate 16
    let ahead := (p - s.ring.cons).toNat
    let n := (p - s.ring.prod).toNat
    let new := (prios ++ List.replicate n 0).take n
    let t := { s with ring := { s.ring with prod := p, waiting := s.ring.waiting ++ new } }
    let asks := s.live = true ∧ s.dev = .up ∧ s.rcv.parked = none ∧ ∃ x ∈ new, s.job.desc.prio < x.toNat
    (s.pln.recov = false → s.ring.log2 ≠ 0 → ahead ≤ 2 ^ s.ring.log2 → (s.ring.prod - s.ring.cons).toNat ≤ ahead →
      (asks → exec (.jobDoorbell v prios) s = .next { t with job := { s.job with preempt := true } }) ∧
      (¬asks → exec (.jobDoorbell v prios) s = .next t)) ∧
    (s.pln.recov = false → s.ring.log2 = 0 ∨ 2 ^ s.ring.log2 < ahead ∨ ahead < (s.ring.prod - s.ring.cons).toNat →
      exec (.jobDoorbell v prios) s = .next (s.ev 0x9017 1 0x10000C)) ∧
    (s.pln.recov = true → exec (.jobDoorbell v prios) s = .next s)) ∧
  (∀ (s : State) (desc : List Byte), s.jobSt = .empty → s.dev = .up → s.ring.cons ≠ s.ring.prod → s.ring.log2 ≠ 0 →
    desc.length = 256 → (∀ p, s.rcv.parked = some p → p.served = false) →
    ∃ t, exec (.jobLoadBegin desc) s = .next t ∧ t.ring.cons = s.ring.cons + 1 ∧ t.job.descAddr =
      s.ring.baseHi.toNat * 2 ^ 32 + s.ring.baseLo.toNat + 256 * (s.ring.cons.toNat % 2 ^ s.ring.log2)) ∧
  ∀ (s : State) (reg : RingReg) (v : Word),
    let rests := s.jobSt = .empty ∧ s.rcv.parked = none ∧ s.ring.cons = s.ring.prod
    let r := { s.ring with cons := 0, prod := 0, waiting := [] }
    (s.pln.recov = true → exec (.jobRingRegisterWrite reg v) s = .next s) ∧
    (s.pln.recov = false → rests → exec (.jobRingRegisterWrite reg v) s = .next { s with ring := match reg with
      | .baseLo => { r with baseLo := v } | .baseHi => { r with baseHi := v } | .size => { r with log2 := v.toNat % 16 } }) ∧
    (s.pln.recov = false → ¬rests → exec (.jobRingRegisterWrite reg v) s = .next (s.ev 0x9017 2 (match reg with
      | .baseLo => 0x100000 | .baseHi => 0x100004 | .size => 0x100008)))

/-- JOB_LOAD_BEGIN consumes the descriptor and enters LOADING with every register that is set there at its Reset value;
JOB_LOAD_COMPLETE ends in ARMED where every check passes, with the page attributes and the stream's first descriptor in
place, and in FAULTED where one fails, or where a Duo partner's loading digest differs (R205, R207, R260).
Rests on the model's choices of log entries 32, 44 and 107. -/
def Obligations.JobLoads : Prop :=
  (∀ (s : State) (desc : List Byte), s.jobSt = .empty → s.dev = .up → s.ring.cons ≠ s.ring.prod → s.ring.log2 ≠ 0 →
    desc.length = 256 → (∀ p, s.rcv.parked = some p → p.served = false) →
    ∃ t, exec (.jobLoadBegin desc) s = .next t ∧ t.jobSt = .loading ∧ t.ring.cons = s.ring.cons + 1 ∧ t.job.desc = descOf desc ∧
      t.job.dec = Dec.reset ∧ t.job.jrn = Jrn.empty ∧ t.job.sigs = List.replicate 64 0 ∧ t.ring.fltIdx = noIdx ∧
      t.ring.fltCode = 0 ∧ t.hbm = s.hbm ∧ t.host = s.host ∧ t.cores = s.cores) ∧
  ∀ (s u : State) (inp : LoadInput), s.jobSt = .loading → s.dev = .up →
    (s.loadChecks inp = (u, false) → ∃ t, exec (.jobLoadComplete inp) s = .next t ∧ t.jobSt = .faulted) ∧
    (s.loadChecks inp = (u, true) →
      let differs := u.duoOn = true ∧ ∃ d, u.duo.ptnLoad = some d ∧ d.toNat ≠ u.loadDigest
      ∃ t, exec (.jobLoadComplete inp) s = .next t ∧ (differs → t.jobSt = .faulted) ∧ (¬differs → t.jobSt = .armed) ∧
        t.job.seg = .desc u.job.desc.segsp u.job.desc.segaddr 0 ∧ t.pat.cur = patOf inp.pat ∧ t.pat.gen = 0 ∧
        t.ring.flagEvt = u.job.desc.flagevt ∧ t.cores = u.cores ∧ t.host = u.host)

/-- An ARMED job, its Duo partner ARMED with an equal digest where there is one, enters RUNNING at Drone 0, with the Cast
its record names, a fresh one where the record is invalid, and its first boundary due; it waits for such a partner, and
while the arithmetic clocks stand for the clocks (R208, R260, R291, R299, R471).
Rests on the model's choices of log entry 45. -/
def Obligations.JobLaunches : Prop :=
  ∀ s : State, s.jobSt = .armed → s.dev = .up →
    let partner := s.duoOn = true → s.duo.ptnArmed = true ∧ ∃ d, s.duo.ptnLoad = some d ∧ d.toNat = s.loadDigest
    (partner → s.clk.stopped = true → exec .jobLaunch s = .next (s.whenAwake .launch)) ∧
    (partner → s.clk.stopped = false → ∃ t, exec .jobLaunch s = .next t ∧ t.jobSt = .running ∧ t.drn.beat = 0 ∧ t.job.bound = true ∧
      t.job.boundIdx = none ∧
      t.ptp.wall = (if s.job.desc.lmode then max s.ptp.wall s.job.desc.lwall else s.ptp.wall) ∧
      t.cast = (castOf s.castPages (s.hbm.read (s.cfg 0x0504 * pageSize) (64 + ceilDiv s.castPages 8))).getD Cast.reset ∧
      t.job.seg = s.job.seg ∧ t.cores = s.cores) ∧
    (¬partner → exec .jobLaunch s = .next s)

/-- Segments (R209 to R211): a descriptor that is written, digests right and keeps R210 leads to its commands, and one not
yet written is read again; one that breaks R210 stops the stream with 0x2020, and a bad delivery is fetched again up to
three times, then stops it with 0x4013. Commands whose digest is CDIG, within the limit of R211, are delivered in order.
Rests on the model's choices of log entries 30, 31 and 42. -/
def Obligations.SegmentFetch : Prop :=
  (∀ (s : State) (sp : Bool) (addr tries : Nat) (b : List Byte), s.job.seg = .desc sp addr tries → s.fetches = true → b.length = 64 →
    let d := segOf64 sp addr b
    let heard := sp = true → b = s.hbm.read addr 64
    let digests := pd61 s.key (b.take 56) = numAt b 56 8
    let bad := s.evCmd (if sp then 0x4010 else 0x4012) 0xFF FieldRef.nil s.job.next addr 0
    (heard → d.ncmd = 0 → exec (.segmentDescriptorFetch b) s = .next (s.setSeg (.unwritten sp addr))) ∧
    (heard → d.ncmd ≠ 0 → digests → segChk d b = none → exec (.segmentDescriptorFetch b) s = .next (s.setSeg (.cmds d 0))) ∧
    (heard → d.ncmd ≠ 0 → digests → ∀ f, segChk d b = some f → exec (.segmentDescriptorFetch b) s =
      .next ((s.event 0x2020 0xFF 0 f (BitVec.ofNat 64 s.job.next) (BitVec.ofNat 64 addr) 0).setSeg (.failed 0x2020))) ∧
    (¬heard ∨ (d.ncmd ≠ 0 ∧ ¬digests) →
      (tries < 3 → exec (.segmentDescriptorFetch b) s = .next (bad.setSeg (.desc sp addr (tries + 1)))) ∧
      (3 ≤ tries → exec (.segmentDescriptorFetch b) s = .next ((bad.evCmd 0x4013 0xFF FieldRef.nil s.job.next addr 0).setSeg (.failed 0x4013))))) ∧
  (∀ (s : State) (sp : Bool) (addr : Nat) (b : List Byte), s.job.seg = .unwritten sp addr → s.fetches = true → b.length = 64 →
    (sp = true → b = s.hbm.read addr 64) →
    ((segOf64 sp addr b).ncmd = 0 → exec (.segmentDescriptorReread b) s = .next s) ∧
    ((segOf64 sp addr b).ncmd ≠ 0 → pd61 s.key (b.take 56) = numAt b 56 8 → segChk (segOf64 sp addr b) b = none →
      exec (.segmentDescriptorReread b) s = .next (s.setSeg (.cmds (segOf64 sp addr b) 0)))) ∧
  ∀ (s : State) (d : SegDesc) (tries : Nat) (b : List Byte), s.job.seg = .cmds d tries → s.fetches = true →
    b.length = 128 * d.ncmd →
    (s.fetchRoom < d.ncmd → exec (.commandSegmentFetch b) s = .next s) ∧
    (d.ncmd ≤ s.fetchRoom →
      ((d.csp = true → b = s.hbm.read d.caddr (128 * d.ncmd)) → pd61 s.key b = d.cdig.toNat →
        exec (.commandSegmentFetch b) s =
          .next (s.setSeg (.pass d (commandsOf d.ncmd (wordsOf b)) (commandsOf d.ncmd (wordsOf b)) 0))) ∧
      (pd61 s.key b ≠ d.cdig.toNat → tries < 3 →
        exec (.commandSegmentFetch b) s =
          .next ((s.evCmd (if d.csp then 0x4010 else 0x4012) 0xFF FieldRef.nil s.job.next d.caddr 0).setSeg (.cmds d (tries + 1)))))

/-! ### Requests, pre-emption, holds -/

/-- The request table of R222: what each request does in each job state of a device that is up, and its rejection
with 0x9010 in every other; an ABORT's fault code is 0x9013 where the job has none, one during a reset waits for
the reset's end, and recovery mode serves none (R222 to R224, R484). Rests on the model's choices of log entries 47 and 75. -/
def Obligations.RequestTable : Prop :=
  (∀ s : State, s.dev = .up → s.pln.recov = false →
    ((s.jobSt = .empty ∨ s.jobSt = .faulted ∨ s.jobSt = .done) → exec .abort s = .next (s.ev 0x9010 1 s.jobSt.code)) ∧
    (s.jobSt ≠ .empty ∧ s.jobSt ≠ .faulted ∧ s.jobSt ≠ .done →
      ∃ t, exec .abort s = .next t ∧ t.jobSt = .faulted ∧ (s.jobSt ≠ .loading ∧ s.jobSt ≠ .armed → t.job.flights = []) ∧
        t.job.disp = [] ∧ (s.ring.fltCode = 0 → t.ring.fltCode = 0x9013 ∧ t.ring.fltIdx = noIdx) ∧
        (s.ring.fltCode ≠ 0 → t.ring.fltCode = s.ring.fltCode ∧ t.ring.fltIdx = s.ring.fltIdx)) ∧
    (s.live = true → exec .pause s = .next { s with job := { s.job with pausePend := true } }) ∧
    (s.live = false → exec .pause s = .next (s.ev 0x9010 2 s.jobSt.code)) ∧
    (s.jobSt = .paused → s.job.saving = false → s.clk.stopped = false → ∀ d,
      exec (.resume d) s = .next (if s.rcv.marked then s.rejoin d else s.setJob .running)) ∧
    (s.jobSt = .paused → s.job.saving = false → s.clk.stopped = true → ∀ d,
      exec (.resume d) s = .next (s.whenAwake (.resume d))) ∧
    (s.jobSt ≠ .paused ∨ s.job.saving = true → ∀ d, exec (.resume d) s = .next (s.ev 0x9010 3 s.jobSt.code)) ∧
    ((s.jobSt = .faulted ∨ s.jobSt = .done) →
      ∃ t, exec .release s = .next t ∧ t.jobSt = .empty ∧ (∀ k ∈ t.cores, k.spd = [] ∧ k.lutCur = [] ∧ k.lutNext = []) ∧
        t.job.sigs = List.replicate 64 0 ∧ t.job.flights = [] ∧ t.job.disp = [] ∧ t.pat.cur = [] ∧ t.wp = s.wp ∧
        t.mqt = s.mqt.ofJob .gone ∧ t.hbm = s.hbm) ∧
    (s.jobSt ≠ .faulted ∧ s.jobSt ≠ .done → exec .release s = .next (s.ev 0x9010 4 s.jobSt.code)) ∧
    (s.rcv.parked = none → exec .discard s = .next (s.ev 0x9010 5 s.jobSt.code))) ∧
  (∀ s : State, s.dev = .recovering → s.pln.recov = false → s.jobSt ≠ .empty → s.jobSt ≠ .faulted → s.jobSt ≠ .done →
    exec .abort s = .next { s with rcv := { s.rcv with abortPend := true } }) ∧
  ∀ s : State, s.pln.recov = true → exec .abort s = .next s ∧ exec .pause s = .next s ∧ (∀ d, exec (.resume d) s = .next s) ∧
    exec .release s = .next s ∧ exec .discard s = .next s

/-- SAVE parks the job at its granted boundary with all that it holds, RESTORE runs it again at its beat with the
same, or lets it rejoin where a reset marked it, or stops it where its segment has changed, and waits until a
descriptor has been read since; DISCARD drops it with its epoch, and the end of a slice asks for a pre-emption where
a descriptor of no lower PRIO waits (R414, R415, R419 to R421). Rests on the model's choices of log entries 48, 74
and 76. -/
def Obligations.Preemption : Prop :=
  (∀ s : State, s.jobSt = .paused → s.dev = .up → s.job.saving = true → s.rcv.parked = none →
    ∃ t p, exec .save s = .next t ∧ t.jobSt = .empty ∧ t.rcv.parked = some p ∧ p.cores = s.cores ∧ p.at_ = s.drn.beat ∧
      p.job.next = s.here.1 ∧ p.job.seg = s.here.2.1 ∧ p.job.sigs = s.job.sigs ∧ p.job.desc = s.job.desc ∧ p.cast = s.cast ∧
      p.pat = s.pat ∧ p.adt = s.adt ∧ p.replay = s.rcv.marked ∧ p.rec_.stepIdx = s.here.1 ∧ p.rec_.frame = s.drn.beat ∧
      t.wp = s.wp) ∧
  (∀ (s : State) (p : Parked) (cdig : DWord), s.rcv.parked = some p → s.jobSt = .empty → s.dev = .up →
    let same := ∀ d a r n, p.rec_.pos = .pass d a r n → d.cdig = cdig
    (p.served = false → exec (.restore cdig) s = .next s) ∧
    (p.served = true → s.clk.stopped = true → exec (.restore cdig) s = .next (s.whenAwake (.restore cdig))) ∧
    (p.served = true → s.clk.stopped = false →
      (p.replay = false → same → ∃ t, exec (.restore cdig) s = .next t ∧ t.jobSt = .running ∧ t.rcv.parked = none ∧ t.drn.beat = p.at_ ∧
        t.job = { p.job with next := p.rec_.stepIdx, seg := p.rec_.pos } ∧ t.cores = p.cores ∧ t.cast = p.cast ∧ t.pat = p.pat ∧
        t.adt = p.adt ∧ t.hbm = s.hbm ∧ t.host = s.host) ∧
      (p.replay = false → ¬same → ∃ t, exec (.restore cdig) s = .next t ∧ t.jobSt = .faulted) ∧
      (p.replay = true → exec (.restore cdig) s =
        .next (({ (s.quietCycles saveCycles).unpark p with jobSt := .paused } : State).rejoin cdig)))) ∧
  (∀ (s : State) (p : Parked), s.rcv.parked = some p → s.pln.recov = false →
    (s.dev = .recovering → exec .discard s = .next (s.ev 0x9010 5 s.jobSt.code)) ∧
    (s.dev ≠ .recovering → ∃ t, exec .discard s = .next t ∧ t.rcv.parked = none ∧ t.job = s.job ∧ t.jobSt = s.jobSt ∧
      (s.mqt.late = [] → t.cores = s.cores ∧ t.hbm = s.hbm) ∧
      (∀ e, s.mqt.epoch = some e → e.by_ = .parked → t.mqt.epoch = none ∧ t.mqt.lastFail = true ∧ t.wp = []) ∧
      ((∀ e, s.mqt.epoch = some e → e.by_ ≠ .parked) → t.mqt = s.mqt ∧ t.wp = s.wp))) ∧
  ∀ s : State, s.live = true → s.dev = .up → s.rcv.slice ≠ 0 → 1000 * s.rcv.slice.toNat ≤ s.rcv.sliceNs → s.rcv.sliceEnd = none →
    let ended := fun (b : Bool) => { s with rcv := { s.rcv with sliceEnd := some s.ptp.wall, sliceAsk := b } }
    let asks := s.rcv.parked = none ∧ ∃ x ∈ s.ring.waiting, s.job.desc.prio ≤ x.toNat
    (asks → exec .sliceEnd s = .next { ended true with job := { s.job with preempt := true } }) ∧
    (¬asks → exec .sliceEnd s = .next (ended false))

/-- Holds stop the beat and count cycles (R197, R199, R204): each held cycle reports the lowest vote and counts each
voting cause, the hold's end lets beats go on where they stood, and a hold that reaches DRN_HOLDWARN raises 0x2040 with
its cause and the low word of Drone. While the arithmetic clocks stand no cycle passes (R466).
Rests on the model's choices of log entries 9 and 21. -/
def Obligations.HoldsStopTheBeat : Prop :=
  (∀ (s : State) (votes : List Vote) (v : Vote), s.live = true → s.dev = .up → lowVote (s.goodVotes votes) = some v →
    let n := if s.clk.stopped then 0 else 1
    ∃ t, exec (.holdBegin votes) s = .next t ∧ t.jobSt = .held ∧ t.drn.held = true ∧ t.drn.cause = v.cause.toNat ∧
      t.drn.die = v.die.toNat ∧ t.drn.core = v.core.toNat ∧ t.drn.len = (if s.drn.held then s.drn.len else 0) + n ∧
      t.drn.beat = s.drn.beat ∧ t.drn.cyc = s.drn.cyc + n ∧
      (∀ c, c < 16 → (t.drn.cnt.getD c 0).toNat = (if c ∈ (s.goodVotes votes).map (fun x => x.cause.toNat) then
        min ((s.drn.cnt.getD c 0).toNat + n) (2 ^ 32 - 1) else (s.drn.cnt.getD c 0).toNat)) ∧ s.SameMems t) ∧
  (∀ (s : State) (n : Nat), s.jobSt = .held → s.dev = .up → s.clk.stopped = false →
    ∃ t, exec (.holdEnd n) s = .next t ∧ t.jobSt = .running ∧ t.drn.held = false ∧ t.drn.beat = s.drn.beat ∧
      t.drn.cyc = s.drn.cyc + n ∧ t.drn.cause = s.drn.cause ∧ s.SameMems t) ∧
  ∀ s : State, s.jobSt = .held → s.dev = .up → s.clk.stopped = false → s.drn.len < s.drn.warn.toNat →
    ∃ t, exec .holdLengthWarning s = .next t ∧ t.drn.len = s.drn.warn.toNat ∧ t.drn.beat = s.drn.beat ∧ t.jobSt = .held ∧
      t.evt = s.evt.add ⟨0x2040, s.drn.core, false, s.drn.die, FieldRef.nil, noIdx, s.drn.beat,
        (s.ptp.pass s.clk.mhz (s.drn.warn.toNat - s.drn.len)).wall, BitVec.ofNat 64 s.drn.cause,
        BitVec.ofNat 64 (s.drn.beat % 2 ^ 32)⟩

/-! ### What arrives for a command -/

/-- A chunk with a good digest is kept for the command that awaits it; a bad one is sent again up to three times and then
never written; a whole shard whose digest is wrong is fetched again up to three times and then fails; a peer's
acknowledgement lets a MOVE's next NTAG chunks leave, its refusal fails the command; a host read that ends in an error
raises 0x6042 and counts as a resend of the chunk or of what else it read (R160, R161, R304, R337, R339, R499).
Rests on the model's choices of log entries 30, 41, 63, 143 and 145. -/
def Obligations.DeliveriesForCommands : Prop :=
  (∀ (s : State) (cidx chunk : Nat) (data : List Byte) (dig : DWord) (f : Flight), s.flight cidx = some f → f.issued = true →
    chunk < s.chunkCount f → s.chunkFits f chunk data.length = true → f.inReach chunk = true →
    f.got.lookup (f.chunkKey chunk) = none → chunk ∉ f.dead →
    let shard := ∃ c, f.cmd = .move c ∧ c.shard = true
    let g := { f with got := (chunk, data) :: f.got }
    let bad := { f with tries := put f.tries chunk ((f.tries.lookup chunk).getD 0 + 1) }
    let now := fun (h : Flight) => ∃ t, exec (.chunkArrival cidx chunk data dig) s = .next t ∧ t.flight cidx = some h ∧ s.SameMems t
    (s.pd data = dig.toNat → f.need = 0 → exec (.chunkArrival cidx chunk data dig) s =
      .next (s.setFlight { f with got := f.got ++ [(f.chunkKey chunk, [])] })) ∧
    (s.pd data = dig.toNat → f.need ≠ 0 → (s.fromSpace f = 3 → s.rcv.replayTo = none) →
      (¬shard → now g) ∧
      ∀ c, f.cmd = .move c → c.shard = true →
        (g.got.length < f.need → now g) ∧
        (f.need ≤ g.got.length → s.shardEntry c = none → now g) ∧
        (f.need ≤ g.got.length → ∀ e d, s.shardEntry c = some (e, d) →
          let n := (f.note fetchKey).getD 0 + 1
          (s.pdChunks (s.srcBytes g) = d → now g) ∧
          (s.pdChunks (s.srcBytes g) ≠ d → n < 4 → now { g with got := [], tries := [(fetchKey, n)] }) ∧
          (s.pdChunks (s.srcBytes g) ≠ d → 4 ≤ n → now (g.mark reasonKey 1)))) ∧
    (s.pd data ≠ dig.toNat →
      ((f.tries.lookup chunk).getD 0 < 3 → now bad) ∧
      (3 ≤ (f.tries.lookup chunk).getD 0 →
        (¬shard → now (({ bad with dead := insertNat chunk f.dead } : Flight).mark faultKey 0x4013)) ∧
        (shard → now (({ bad with dead := insertNat chunk f.dead } : Flight).mark reasonKey 2))))) ∧
  (∀ (s : State) (cidx : Nat) (f : Flight), s.flight cidx = some f →
    (f.issued = true → f.acks ≠ 0 ∨ s.fromSpace f = 4 →
      let g := { f with acks := f.acks - f.ntag }
      exec (.roceResponseReceive cidx true) s = .next ((s.sendChunks g).setFlight g) ∧
      ∃ t g, exec (.roceResponseReceive cidx false) s = .next t ∧ t.flight cidx = some g ∧ g.acks = 0 ∧
        g.note faultKey = some 0x6011 ∧ (∀ k, k < f.need → f.got.lookup k = none → k ∈ g.dead) ∧ s.SameMems t) ∧
    (f.issued = false ∨ (f.acks = 0 ∧ s.fromSpace f ≠ 4) → ∀ ok, exec (.roceResponseReceive cidx ok) s = .next s)) ∧
  ∀ (s : State) (cidx chunk : Nat) (how : HostRead) (addr : DWord), how ≠ .ok → s.dev ≠ .off →
    (how = .timeout → s.pci.cfg.noTimeout = false) →
    let u := s.noteAer (readCode how)
    (s.flight cidx = none → exec (.pcieCompletionTimeout cidx chunk how addr) s =
      .next ((u.ev 0x6042 (readCode how) addr.toNat).readFails addr.toNat)) ∧
    ∀ f, s.flight cidx = some f →
      let awaited := f.issued = true ∧ s.fromSpace f = 3 ∧ chunk < f.need ∧ f.got.lookup chunk = none ∧ chunk ∉ f.dead
      let shard := ∃ c, f.cmd = .move c ∧ c.shard = true
      let bad := { f with tries := put f.tries chunk ((f.tries.lookup chunk).getD 0 + 1) }
      let now := fun (h : Flight) => ∃ t, exec (.pcieCompletionTimeout cidx chunk how addr) s = .next t ∧ t.flight cidx = some h ∧ s.SameMems t
      (¬awaited → exec (.pcieCompletionTimeout cidx chunk how addr) s =
        .next ((u.evCmd 0x6042 f.cmd.hdr.lcore.toNat FieldRef.nil cidx (readCode how) addr.toNat).readFails addr.toNat)) ∧
      (awaited →
        ((f.tries.lookup chunk).getD 0 < 3 → now bad) ∧
        (3 ≤ (f.tries.lookup chunk).getD 0 →
          (¬shard → now (({ bad with dead := insertNat chunk f.dead } : Flight).mark faultKey 0x4013)) ∧
          (shard → now (({ bad with dead := insertNat chunk f.dead } : Flight).mark reasonKey 3))))

/-- A job's signal counters rise modulo 2^32: by JOB_SIGVAL at a JOB_SIGADD, which a job in no state that takes it ignores
with 0x9017, and by a peer's SIGNAL once, keyed by its rank, step word and command word (R219, R339, R512).
Rests on the model's choices of log entry 54. -/
def Obligations.SignalCounters : Prop :=
  (∀ (s : State) (v : Word), v.getLsbD 31 = true → s.pln.recov = false →
    let taken := s.jobSt = .armed ∨ s.jobSt = .running ∨ s.jobSt = .held ∨ s.jobSt = .paused
    (taken → exec (.jobSigadd v) s = .next { s with
      job := { s.job with sigs := upd s.job.sigs (v.toNat % 64) (· + s.ring.sigVal) }
      rcv := { s.rcv with adds := (v.toNat % 64, s.ring.sigVal) :: s.rcv.adds } }) ∧
    (¬taken → exec (.jobSigadd v) s = .next (s.ev 0x9017 3 0x100034))) ∧
  ∀ (s : State) (p : Packet), s.Admits p →
    ∃ t, exec (.signalPacketReceive p) s = .next t ∧ s.SameMems t ∧ t.jobSt = s.jobSt ∧
      ((p.srank.toNat, p.stepw, p.cmdw) ∉ s.net.sigSeen →
        t.job = { s.job with sigs := upd s.job.sigs (p.cdig.toNat / 2 ^ 32 % 64) (· + p.cdig.truncate 32) } ∧
        t.net.sigSeen = (p.srank.toNat, p.stepw, p.cmdw) :: s.net.sigSeen ∧ t.net.dupDrop = s.net.dupDrop) ∧
      ((p.srank.toNat, p.stepw, p.cmdw) ∈ s.net.sigSeen →
        t.job = s.job ∧ t.net.sigSeen = s.net.sigSeen ∧ t.net.dupDrop.toNat = min (s.net.dupDrop.toNat + 1) (2 ^ 32 - 1))

/-- The host consumes the completion ring and the journal ring, where the consumer index stays between what it was
and what was produced; a record that waited for room in the journal becomes visible whole (R248, R249, R511). -/
def Obligations.RingsConsumed : Prop :=
  (∀ (s : State) (v : Word), s.pln.recov = false →
    (s.ring.crCons.toNat ≤ v.toNat → v.toNat ≤ s.job.crProd → ∃ t, exec (.jobCrconsWrite v) s = .next t ∧ t.ring.crCons = v ∧
      t.jobSt = s.jobSt ∧ (s.job.crPend = [] → t = { s with ring := { s.ring with crCons := v } })) ∧
    (v.toNat < s.ring.crCons.toNat ∨ s.job.crProd < v.toNat → exec (.jobCrconsWrite v) s = .next (s.ev 0x9017 4 0x100038))) ∧
  (∀ (s : State) (v : Word), s.pln.recov = false → ∃ t, exec (.audJtailWrite v) s = .next t ∧ t.job.jrn.tail = v.toNat ∧ t.jobSt = s.jobSt ∧
    (s.job.jrn.waiting = [] → t = { s with job := { s.job with jrn := { s.job.jrn with tail := v.toNat } } })) ∧
  ∀ s : State,
    (s.job.jrn.waiting = [] → exec .journalRecordWrite s = .next s) ∧
    (∀ r rest, s.job.jrn.waiting = r :: rest → s.jrnRoom r.length = false → exec .journalRecordWrite s = .next s) ∧
    ∀ r, s.job.jrn.waiting = [r] → s.jrnRoom r.length = true → ∃ t, exec .journalRecordWrite s = .next t ∧
      t.job.jrn.waiting = [] ∧ t.job.jrn.head = (s.job.jrn.head + r.length / 64) % max 1 s.jrnUnits ∧
      t.hbm = (s.stores (s.jrnWrites s.job.jrn.head r)).hbm ∧ (s.mqt.epoch = none → t.host = s.host) ∧ t.cores = s.cores ∧
      t.wp = s.wp

/-! ### Tables, Maquette -/

/-- A table image load begins with a right header, is rejected with 0x9014 beside another one, with a wrong header
or for a boundary that is past, and becomes ready with entries that arrived whole, whose digest is EDIG and that
keep R314; else it fails (R313 to R315). Rests on the model's choices of log entries 107 and 129. -/
def Obligations.TableImages : Prop :=
  (∀ (s : State) (v : Word) (h : TableHead),
    let ad := v.getLsbD 1
    let t := s.table ad
    let right := h.table.toNat = (if ad then 1 else 0) ∧ h.nent.toNat = (if ad then 65536 else nPages) ∧
      h.gen.toNat = (t.gen + 1) % 65536 ∧ h.reserved = false
    let fails := fun (r : Nat) => ∃ u, exec (.tableImageLoad v h) s = .next u ∧ (u.table ad).st = 3 ∧ (u.table ad).cur = t.cur ∧
      (u.table ad).gen = t.gen ∧ u.table (!ad) = s.table (!ad) ∧ s.SameMems u ∧
      u.evt = s.evt.add ⟨0x9014, 0xFF, false, 0, FieldRef.nil, noIdx, s.drn.beat, s.ptp.wall, BitVec.ofNat 64 (if ad then 1 else 0), BitVec.ofNat 64 r⟩
    (v.getLsbD 0 = false ∨ s.fetches = false → exec (.tableImageLoad v h) s = .next s) ∧
    (v.getLsbD 0 = true → s.fetches = true →
      (t.st = 1 ∨ t.st = 2 → exec (.tableImageLoad v h) s = .next (s.ev 0x9014 (if ad then 1 else 0) 1)) ∧
      (t.st ≠ 1 → t.st ≠ 2 →
        (¬right → fails 2) ∧
        (right → (h.apply - s.job.stepBase).toNat < s.commitsPast → fails 3) ∧
        (right → s.commitsPast ≤ (h.apply - s.job.stepBase).toNat →
          ∃ u, exec (.tableImageLoad v h) s = .next u ∧ (u.table ad).st = 1 ∧ (u.table ad).apply = h.apply ∧
            (u.table ad).edig = h.edig ∧ (u.table ad).cur = t.cur ∧ (u.table ad).gen = t.gen ∧ (u.table ad).due = h.apply :: t.due ∧
            u.table (!ad) = s.table (!ad) ∧ s.SameMems u)))) ∧
  ∀ (s : State) (ad : Bool) (img : TableImage),
    let es := img.entries.foldl (fun l e => if e.1 < (if ad then 65536 else nPages) ∧ e.2 ≠ 0 ∧ (l.lookup e.1).isNone then
      addAt e.1 (if ad then e.2.toNat else e.2.toNat % 65536) l else l) []
    let whole := (if ad then adtDigest s.key es else patDigest s.key es) = (s.table ad).edig.toNat ∧
      sparse s.pci.readErr (s.ring.tblHi.toNat * 2 ^ 32 + s.ring.tblLo.toNat) + img.bad < 4
    let keeps := ad = false → (∀ e ∈ es, bitAt e.2 12 = false ∧ bitAt e.2 11 = false) ∧ s.imageLacks es = false
    ((s.table ad).st ≠ 1 → exec (.tableImageReady ad img) s = .next s) ∧
    ((s.table ad).st = 1 → ∃ u, exec (.tableImageReady ad img) s = .next u ∧ (u.table ad).st = (if whole ∧ keeps then 2 else 3) ∧
      (whole ∧ keeps → (u.table ad).nxt = es ∧ (u.table ad).due = []) ∧ (u.table ad).cur = (s.table ad).cur ∧
      u.table (!ad) = s.table (!ad) ∧ s.SameMems u)

/-- An epoch's drain (R150, R395 to R398): a page that is about to be written is copied to a free staging page of
its die, byte for byte, and a write that waited for that lands behind it; the drain takes staged copies before
captured pages; with every page and the step's record in the target the epoch completes and protection ends; a
failed epoch ends without DONE. Rests on the model's choices of log entries 106 and 126. -/
def Obligations.MaquetteDrain : Prop :=
  (∀ (s : State) (e : Epoch), s.mqt.epoch = some e →
    let needs := fun (page : Nat) => s.job.flights.any (fun f => f.issued && decide (page ∈ s.untouched f))
    (∀ page p, needs page = true → s.freeStage e (page / 110592) = some p →
      ∃ t, exec (.firstTouchCopy page) s = .next t ∧
        t.mqt = { s.mqt with epoch := some { e with drn := insertNat page e.drn, staged := e.staged ++ [(page, p)] } } ∧
        (s.hbm.wf = true → ∀ a, a < pageSize → t.hbm.get (p * pageSize + a) = s.hbm.get (page * pageSize + a)) ∧
        (∀ a, a < p * pageSize ∨ (p + 1) * pageSize ≤ a → t.hbm.get a = s.hbm.get a) ∧ t.cores = s.cores ∧ t.wp = s.wp) ∧
    (∀ page, needs page = true → s.freeStage e (page / 110592) = none → exec (.firstTouchCopy page) s = .next s) ∧
    (∀ w p, s.mqt.late = [w] → needs (pageOf w.addr) = false → s.guarded (pageOf w.addr) = true →
      s.freeStage e (pageOf w.addr / 110592) = some p →
      exec (.firstTouchCopy (pageOf w.addr)) s =
        .next (((({ s with mqt := { s.mqt with late := [] } } : State).touchCopy (pageOf w.addr)).heal w.addr w.bytes.length).store w)) ∧
    (∀ page, e.nextPage = some page →
      let cells := s.pageCells (match e.staged with | x :: _ => x.2 | [] => page)
      let i := e.pages.findIdx (· == page)
      let u := (s.toTarget e (imageDir e.pages.length + i * pageSize) pageSize cells true).toTarget e (0x9000 + 16 * i) 16
        (cellsOf (leBytes 8 page ++ leBytes 8 (pageDigest e.key cells))) true
      ∃ t e', exec (.drainPageComplete page) s = .next t ∧ t.mqt.epoch = some e' ∧
        e'.done = e.done ++ [(page, BitVec.ofNat 64 (pageDigest e.key cells))] ∧ e'.pages = e.pages ∧ t.wp = s.wp ∧
        t.mqt.remote = u.mqt.remote ∧
        (s.mqt.late = [] → e'.staged = e.staged.drop 1 ∧ e'.drn = insertNat page e.drn ∧ t.hbm = s.hbm ∧ t.cores = s.cores ∧
          t.host = u.host)) ∧
    (∀ page, e.nextPage ≠ some page → exec (.drainPageComplete page) s = .next s) ∧
    (e.ready = true → ∃ t, exec .epochComplete s = .next t ∧ t.mqt.epoch = none ∧ t.mqt.lastDone = true ∧
      t.mqt.lastFail = false ∧ t.mqt.lastEpoch = e.epoch ∧ t.wp = [] ∧ t.hbm = (s.stores s.mqt.late).hbm ∧
      (s.mqt.late = [] → t.cores = s.cores) ∧
      t.evt = s.evt.add ⟨0xA041, 0xFF, false, 0, FieldRef.nil, noIdx, s.drn.beat, s.ptp.wall, BitVec.ofNat 64 e.epoch.toNat,
        BitVec.ofNat 64 e.pages.length⟩) ∧
    (e.ready = false → exec .epochComplete s = .next s) ∧
    ∀ r,
      let fails := r = 1 ∨ r = 2 ∨ (r = 3 ∧ 0x1000000 < e.recLen) ∨ (r = 4 ∧ e.cut = true) ∨
        (r = 5 ∧ e.recDone = false ∧ (e.by_ = .gone ∨ (e.by_ = .job ∧ (s.jobSt = .faulted ∨ s.jobSt = .empty))))
      (fails → ∃ t, exec (.epochFail r) s = .next t ∧ t.mqt.epoch = none ∧ t.mqt.lastDone = false ∧ t.mqt.lastFail = true ∧
        t.mqt.lastEpoch = e.epoch ∧ t.wp = [] ∧ t.hbm = (s.stores s.mqt.late).hbm ∧ (s.mqt.late = [] → s.SameMems t) ∧
        t.evt = s.evt.add ⟨0xA047, 0xFF, false, 0, FieldRef.nil, noIdx, s.drn.beat, s.ptp.wall, BitVec.ofNat 64 e.epoch.toNat, BitVec.ofNat 64 r⟩) ∧
      (¬fails → exec (.epochFail r) s = .next s)) ∧
  ∀ s : State, s.mqt.epoch = none → exec .epochComplete s = .next s ∧
    ∀ n, exec (.drainPageComplete n) s = .next s ∧ exec (.epochFail n) s = .next s

/-- A restore is rejected while anything else is loaded, open or parked, fails with an image that is not complete,
not of this configuration or of another size, and else begins; with every page good it writes the pages, the Cast
record, and the step's record into the staging reserve, and with a bad one it fails and leaves the Cast undefined
(R390, R399). Rests on the model's choices of log entries 50, 126 and 127. -/
def Obligations.MaquetteRestore : Prop :=
  (∀ (s : State) (v : Word) (host : HostMem) (h : ImageHeader) (cr : List Byte), s.pln.recov = false →
    let busy := s.jobSt ≠ .empty ∨ s.dev ≠ .up ∨ s.rcv.parked.isSome ∨ s.mqt.epoch.isSome ∨ s.mqt.rstSt = 1
    let here := (s.readTarget host (v.toNat % 4)).kind.toNat ≤ 1 ∧ h.ver = 1 ∧ h.done = true ∧ headerDigest h cr = h.hdrdig.toNat
    let now := fun (st r : Nat) => ∃ t, exec (.maquetteRestore v host ⟨h, cr⟩) s = .next t ∧ t.mqt.rstSt = st ∧ t.mqt.rstReason = r ∧
      t.mqt.verify = v.getLsbD 30 ∧ t.mqt.rstTgt = v.toNat % 4 ∧ s.SameMems t ∧
      (¬busy → st = 1 → t.mqt.rstHdr = some h ∧ t.mqt.rstCast = cr ∧ t.mqt.rstEntry = some (s.readTarget host (v.toNat % 4)))
    (v.getLsbD 31 = false → exec (.maquetteRestore v host ⟨h, cr⟩) s =
      .next { s with mqt := { s.mqt with verify := v.getLsbD 30, rstTgt := v.toNat % 4 } }) ∧
    (v.getLsbD 31 = true →
      (busy → now s.mqt.rstSt 1) ∧
      (¬busy →
        (¬here → now 3 2) ∧
        (here → h.cfgdig ≠ s.pln.cfgDig → now 3 3) ∧
        (here → h.cfgdig = s.pln.cfgDig → h.npg.toNat ≠ s.castPages → now 3 5) ∧
        (here → h.cfgdig = s.pln.cfgDig → h.npg.toNat = s.castPages → now 1 s.mqt.rstReason)))) ∧
  ∀ (s u : State) (h : ImageHeader) (pages : List ImagePage) (rec : List Byte),
    (s.mqt.rstHdr = none ∨ s.mqt.rstSt ≠ 1 → exec (.maquetteRestoreComplete pages rec) s = .next s) ∧
    (s.mqt.rstHdr = some h → s.mqt.rstSt = 1 →
      (pages.length ≠ h.npg.toNat → exec (.maquetteRestoreComplete pages rec) s = .next s) ∧
      (pages.length = h.npg.toNat →
        (State.restorePages h.key.toNat h.npg.toNat 0 pages s = (u, none) →
          ∃ t, exec (.maquetteRestoreComplete pages rec) s = .next t ∧ t.mqt.rstSt = 2 ∧ t.mqt.rstReason = u.mqt.rstReason ∧
            t.mqt.rstLen = (rec.take h.srlen.toNat).length ∧
            t.hbm = (u.hbm.setBytes (u.cfg 0x0504 * pageSize) u.mqt.rstCast).setBytes (u.reserveBase 0 * pageSize) (rec.take h.srlen.toNat)) ∧
        ∀ r page, State.restorePages h.key.toNat h.npg.toNat 0 pages s = (u, some (r, page)) →
          ∃ t, exec (.maquetteRestoreComplete pages rec) s = .next t ∧ t.mqt.rstSt = 3 ∧ t.mqt.rstReason = r ∧
            t.hbm = u.blurCast.hbm ∧ t.evt = u.evt.add ⟨0xA045, 0xFF, false, 0, FieldRef.nil, noIdx, u.drn.beat, u.ptp.wall,
              BitVec.ofNat 64 r, BitVec.ofNat 64 page⟩))

/-! ### Recovery -/

/-- The triggers of a compute-only reset (R402, R406, R410, R427): CKM_RSTCTL.RST and a hang, where RCV_AUTO.HANG allows
it, begin one, which abandons what is in flight, counts and raises 0xA050; a trigger during a reset, while OFF or BOOTING,
or in recovery mode changes nothing; a hold for the host or for peers that lasts RCV_WAITTMO raises 0xB010, and stops the
job where RCV_AUTO.WAIT says so; a reset that lasts too long raises 0xA054 with the phase reached.
Rests on the model's choices of log entries 33, 71, 73 and 144. -/
def Obligations.ResetTriggers : Prop :=
  (∀ (s : State) (v : Word),
    (v.getLsbD 31 = true → s.pln.recov = false → s.dev = .up ∨ s.dev = .failed → s.job.kill = none →
      ∃ t, exec (.ckmRstctlWrite v) s = .next t ∧ t.dev = .recovering ∧ t.jobSt = s.jobSt ∧ t.rcv.cause = 0 ∧ t.rcv.phase = 1 ∧
        (s.live = true → t.job.flights = [] ∧ t.job.disp = []) ∧ t.job.pausePend = s.job.pausePend ∧
        t.rcv.count = min 255 (s.rcv.count + 1) ∧
        t.evt = s.evt.add ⟨0xA050, 0xFF, false, 0, FieldRef.nil, noIdx, s.drn.beat, s.ptp.wall, 0,
          BitVec.ofNat 64 (min 255 (s.rcv.count + 1))⟩) ∧
    (v.getLsbD 31 = false ∨ s.dev = .recovering ∨ s.dev = .off ∨ s.dev = .booting ∨ s.pln.recov = true →
      exec (.ckmRstctlWrite v) s = .next s)) ∧
  (∀ s : State,
    let hangs := s.live = true ∧ s.dev = .up ∧ s.cfg 0x0303 ≤ s.rcv.hang ∧ s.rcv.hung = false
    (¬hangs → exec .hangDetected s = .next s) ∧
    (hangs → s.job.kill = none → ∃ t r, exec .hangDetected s = .next t ∧ t.rcv.hung = true ∧ r.code = 0xB001 ∧
      (bitAt (s.cfg 0x0305) 0 = true → t.dev = .recovering ∧ t.rcv.cause = 2 ∧ t.rcv.count = min 255 (s.rcv.count + 1) ∧
        t.job.flights = [] ∧ ∃ q, q.code = 0xA050 ∧ t.evt = (s.evt.add r).add q) ∧
      (bitAt (s.cfg 0x0305) 0 = false → t.dev = .up ∧ t.jobSt = s.jobSt ∧ t.evt = s.evt.add r ∧ s.SameMems t))) ∧
  (∀ s : State,
    let long := s.jobSt = .held ∧ s.dev = .up ∧ s.cfg 0x0304 * 1000 * s.clk.mhz ≤ s.drn.len
    let late := (s.job.flights.flatMap s.awaits).filter (fun r => !s.net.peerUp r)
    let who := fun (r : Nat) => ((s.drn.cause = 0 ∨ s.drn.cause = 5) ∧ r = 0xFFFF) ∨ (s.drn.cause = 6 ∧ r ∈ late ∧ ∀ k ∈ late, r ≤ k)
    (¬long ∨ (∀ r, ¬who r) → exec .waitTimeout s = .next s) ∧
    ∀ r, long → who r →
      (bitAt (s.cfg 0x0305) 2 = false → exec .waitTimeout s = .next (s.ev 0xB010 r s.drn.cause)) ∧
      (bitAt (s.cfg 0x0305) 2 = true → ∃ t, exec .waitTimeout s = .next t ∧ t.jobSt = .faulted ∧ t.job.flights = [] ∧
        (s.ring.fltCode = 0 → t.ring.fltCode = 0xB010))) ∧
  ∀ s : State,
    (s.dev ≠ .recovering → exec .resetTimeout s = .next s) ∧
    (s.dev = .recovering → ∃ p, 1 ≤ p ∧ s.rcv.phase ≤ p ∧ exec .resetTimeout s =
      .next (({ s with free := s.free + 1, rcv := { s.rcv with phase := p } } : State).ev 0xA054 p s.rcv.count))

/-- COMPUTE_RESET clears every scratchpad and accumulator, zeroes Drone and aligns the clock, keeping HBM and host memory;
a running job that has a resume record and none of R405's reasons against it then dispatches its step's STEP again at its
frame base, one in its prologue its first command at beat 0, and one with a reason against it is FAULTED; after a hang a
suspect that hangs again is charged and the sequence begins again, and the job rejoins where none does; three failed
alignments fail the device, and without power nothing but the phases' end happens (R403 to R405, R408, R409, R465).
Rests on the model's choices of log entries 49, 70, 71, 72, 76 and 82. -/
def Obligations.ComputeReset : Prop :=
  (∀ (s : State) (inp : ResetInput),
    (s.dev ≠ .recovering → exec (.computeReset inp) s = .next s) ∧
    (s.dev = .recovering → s.pwr.off = true → exec (.computeReset inp) s = .next s.endReset)) ∧
  (∀ (s : State) (inp : ResetInput), s.dev = .recovering → s.pwr.off = false → 3 ≤ inp.alignFails.length →
    ∃ t, exec (.computeReset inp) s = .next t ∧ t.dev = .failed ∧ t.rcv.phase = 0) ∧
  ∀ (s : State) (inp : ResetInput), s.dev = .recovering → s.pwr.off = false → cleanReset inp → s.Settled →
    let clean := fun (t : State) => t.rcv.phase = 0 ∧ t.clk.aligned = true ∧ t.clk.stopped = false ∧ t.hbm = s.hbm ∧ t.host = s.host ∧
      ∀ c, (t.core c).spd = []
    let undiagnosed := s.rcv.cause ≠ 2 ∨ s.rcv.suspects = []
    let found := inp.hungAgain.bind (fun i => (s.rcv.suspects.take 16)[i]?)
    (s.live = false → s.rcv.abortPend = false →
      ∃ t, exec (.computeReset inp) s = .next t ∧ t.dev = (if s.rcv.failed then .failed else .up) ∧ t.jobSt = s.jobSt ∧
        t.drn.beat = 0 ∧ clean t) ∧
    (s.live = false → s.rcv.abortPend = true → s.jobSt = .loading ∨ s.jobSt = .armed ∨ s.jobSt = .paused →
      ∃ t, exec (.computeReset inp) s = .next t ∧ t.dev = (if s.rcv.failed then .failed else .up) ∧ t.jobSt = .faulted ∧
        t.rcv.phase = 0) ∧
    (s.live = true → s.rcv.cause = 2 → ∀ x, found = some x → ∃ t, exec (.computeReset inp) s = .next t ∧ t.dev = .recovering ∧
      t.jobSt = s.jobSt ∧ t.rcv.suspects = [] ∧
      ∀ c, s.rcv.suspCore = some c → c < s.aud.guilt.length → (t.aud.guilt.getD c Guilt.clean).test = true) ∧
    (s.live = true → undiagnosed ∨ found = none → s.rcv.failed = false → s.rcv.abortPend = false →
      (∀ r, s.rcv.resume = some r →
        (s.noRejoin r inp.cdig = none →
          ∃ t, exec (.computeReset inp) s = .next t ∧ t.dev = .up ∧ t.jobSt = .running ∧ t.job.next = r.stepIdx ∧ t.job.seg = r.pos ∧
            t.drn.beat = r.frame ∧ t.job.flights = [] ∧ t.job.disp = [] ∧ t.cast = r.cast ∧
            t.job.dec = { s.job.dec with skip := r.dec.skip, colFlag := r.dec.colFlag } ∧ t.rcv.replayTo = some s.job.hi ∧
            (undiagnosed → clean t)) ∧
        ((s.noRejoin r inp.cdig).isSome = true → ∃ t, exec (.computeReset inp) s = .next t ∧ t.dev = .up ∧ t.jobSt = .faulted)) ∧
      (s.rcv.resume = none →
        (0xFFFFFFFF ∉ s.net.rdmaSpd →
          ∃ t, exec (.computeReset inp) s = .next t ∧ t.dev = .up ∧ t.jobSt = .running ∧ t.job.next = 0 ∧
            t.job.seg = .desc s.job.desc.segsp s.job.desc.segaddr 0 ∧ t.drn.beat = 0 ∧ t.job.flights = [] ∧ t.job.disp = [] ∧
            t.rcv.replayTo = some s.job.hi ∧ (undiagnosed → clean t)) ∧
        (0xFFFFFFFF ∈ s.net.rdmaSpd → ∃ t, exec (.computeReset inp) s = .next t ∧ t.dev = .up ∧ t.jobSt = .faulted)))

/-- A verdict records a charge against a logical core, with the action that R382 gives it at the next boundary, or
at once with no job loaded; one against the module sets every enabled core's test flag; none is taken of a FAILED
device (R379, R380, R382, R383). A margin code is recorded for every core sampled, and a third low one in a row asks
for a trim step, or at the top for what R382 gives there (R450). Rests on the model's choices of log entries 81, 104
and 125. -/
def Obligations.ChargesAndMargins : Prop :=
  (∀ (s : State) (v : Word),
    let l := v.toNat % 256
    let g := s.aud.guilt.getD l Guilt.clean
    let charges := if g.pend.isSome then s.inWindow g else s.inWindow g ++ [s.ptp.wall]
    (v.getLsbD 31 = false ∨ s.served 0x600090 = false → exec (.audVerdictWrite v) s = .next s) ∧
    (v.getLsbD 31 = true → s.served 0x600090 = true →
      (s.dev = .failed → exec (.audVerdictWrite v) s = .next (s.ev 0x9010 0 s.jobSt.code)) ∧
      (s.dev ≠ .failed → v.getLsbD 30 = true → ∃ t, exec (.audVerdictWrite v) s = .next t ∧
        t.aud.guilt.length = s.aud.guilt.length ∧
        (∀ k, k < s.nCores → k < s.aud.guilt.length →
          t.aud.guilt.getD k Guilt.clean = { s.aud.guilt.getD k Guilt.clean with test := true }) ∧ s.SameMems t ∧ t.job = s.job ∧
        t.evt = s.evt.add ⟨0x5030, 0xFF, false, 0, FieldRef.nil, noIdx, s.drn.beat, s.ptp.wall, 2, 0⟩) ∧
      (s.dev ≠ .failed → v.getLsbD 30 = false → s.nCores ≤ l → exec (.audVerdictWrite v) s = .next s) ∧
      (s.dev ≠ .failed → v.getLsbD 30 = false → l < s.nCores → l < s.aud.guilt.length →
        (s.jobSt ≠ .empty ∨ s.dev ≠ .up → ∃ t, exec (.audVerdictWrite v) s = .next t ∧ s.SameMems t ∧
          t.aud.guilt.getD l Guilt.clean = { g with
            charges := charges, test := true
            pend := some (if g.pend.isSome then g.pend.getD 1
              else if (s.inWindow g).isEmpty && decide (s.pwr.trims.getD l 0 < 8) then 1 else 2) } ∧
          (∀ k, k ≠ l → t.aud.guilt.getD k Guilt.clean = s.aud.guilt.getD k Guilt.clean) ∧
          t.evt = s.evt.add ⟨0x5030, s.named l, false, l / s.perDie, FieldRef.nil, noIdx, s.drn.beat, s.ptp.wall, 2, BitVec.ofNat 64 charges.length⟩) ∧
        (s.jobSt = .empty → s.dev = .up → ∃ t, exec (.audVerdictWrite v) s = .next t ∧ s.SameMems t ∧
          (t.aud.guilt.getD l Guilt.clean).test = true ∧ (t.aud.guilt.getD l Guilt.clean).pend = none)))) ∧
  (∀ (s : State) (codes : List (BitVec 6)),
    (s.dev ≠ .up → exec (.patinaSample codes) s = .next s) ∧
    (s.dev = .up → s.pwr.margins.length = 192 → s.pwr.lowRuns.length = 192 →
      (∀ l, l < min codes.length s.nCores → (codes.getD l 0).toNat < s.cfg 0x0406 → s.pwr.lowRuns.getD l 0 ≠ 2) →
      ∃ t, exec (.patinaSample codes) s = .next t ∧ t.pwr.trims = s.pwr.trims ∧ t.aud = s.aud ∧ t.evt = s.evt ∧
        ∀ l, l < min codes.length s.nCores → t.pwr.margins.getD l 0 = (codes.getD l 0).toNat ∧
          t.pwr.lowRuns.getD l 0 = (if (codes.getD l 0).toNat < s.cfg 0x0406 then s.pwr.lowRuns.getD l 0 + 1 else 0))) ∧
  ∀ (s : State) (c : BitVec 6), s.dev = .up → c.toNat < s.cfg 0x0406 → s.pwr.lowRuns.getD 0 0 = 2 → s.pwr.lowRuns ≠ [] →
    s.aud.guilt ≠ [] →
    let g := s.aud.guilt.getD 0 Guilt.clean
    let top := 8 ≤ s.pwr.trims.getD 0 0 + (g.patina.filter (fun a => a == 3)).length + (if g.pend = some 1 then 1 else 0)
    (s.jobSt ≠ .empty → ∃ t r, exec (.patinaSample [c]) s = .next t ∧ t.pwr.lowRuns.getD 0 0 = 0 ∧
      r.code = (if top then 0x7031 else 0x7030) ∧ t.evt = s.evt.add r ∧ t.pwr.trims = s.pwr.trims ∧
      t.aud.guilt.getD 0 Guilt.clean = { g with patina := g.patina ++ [if top then 4 else 3] }) ∧
    (s.jobSt = .empty → (∀ x ∈ s.aud.guilt, x.pend = none ∧ x.patina = []) → ¬top → s.pwr.trims ≠ [] →
      ∃ t, exec (.patinaSample [c]) s = .next t ∧ t.pwr.trims.getD 0 0 = s.pwr.trims.getD 0 0 + 1 ∧
        (t.aud.guilt.getD 0 Guilt.clean).patina = [] ∧ (t.aud.guilt.getD 0 Guilt.clean).last = 1)

/-! ### The network -/

/-- A Duo's link (R260, R262 to R264, R346): up to 170 messages of whole boundaries go out in one packet; a
partner's boundary that agrees is settled, one that differs, or that this module has no part in, stops issue at the
first mismatching beat; a repeated packet is dropped and told where it differs; a differing loading digest ends an
ARMED job; the first differing result digest names the command and ends the job; a silent partner ends it, or leaves
it unpaired, as NET_DUOPOL says. Rests on the model's choices of log entries 33 and 59. -/
def Obligations.DuoLink : Prop :=
  (∀ s : State,
    let ready := (s.duo.send.takeWhile (fun b => s.wholeBnd b.beat)).take 170
    (s.duoOn = true → ready ≠ [] → ∃ t x, exec .duoMessageSend s = .next t ∧ t.duo.send = s.duo.send.drop ready.length ∧
      t.duo.own = s.duo.own ∧ (t.net.flow s.job.desc.rank).nextPsn = (s.net.flow s.job.desc.rank).nextPsn + 1 ∧
      x ∈ (t.net.flow s.job.desc.rank).unacked ∧ x.pkt.type = 8 ∧ x.pkt.part = 0 ∧ x.pkt.psn = (s.net.flow s.job.desc.rank).nextPsn ∧
      x.pkt.payload = ready.flatMap (fun b => leBytes 8 b.beat ++ leBytes 8 b.count ++ leBytes 8 b.dig.toNat)) ∧
    (s.duoOn = false ∨ ready = [] → exec .duoMessageSend s = .next s)) ∧
  (∀ (s : State) (p : Packet), s.duoOn = false → exec (.duoPacketReceive p) s = .next s) ∧
  (∀ (s : State) (p : Packet), s.Admits p → s.duoOn = true →
    let f := s.net.flow p.srank.toNat
    (f.took p.psn = true →
      let differs := p.part = 0 ∧ (bndsOf 170 p.payload).any s.duo.conflict = true
      ∃ t, exec (.duoPacketReceive p) s = .next t ∧ t.duo = s.duo ∧ t.job = s.job ∧ t.net.dupDrop = bump s.net.dupDrop 1 ∧
        t.evt = if differs then (s.copiesDiffer p).evt else s.evt) ∧
    (p.psn = f.rxNext → f.rxOoo = [] → s.duo.held = [] → s.duo.ptn = [] →
      (p.part = 0 → s.live = true → s.duo.lost = false → s.duo.pendMis = none → ∀ b, bndsOf 170 p.payload = [b] →
        s.wholeBnd b.beat = true →
        let stops := fun (n : Nat) => ∃ t x, exec (.duoPacketReceive p) s = .next t ∧ t.duo.mis = true ∧
          t.duo.beat = BitVec.ofNat 64 b.beat ∧ t.duo.pendMis = some b.beat ∧ t.job.disp = [] ∧
          (∀ g ∈ t.job.flights, g.issued = true) ∧ t.job.stop = some x ∧ x.idx = s.job.hi ∧ x.code = 0xA011 ∧
          t.evt = s.evt.add ⟨0xA010, 0xFF, false, 0, FieldRef.nil, noIdx, s.drn.beat, s.ptp.wall, BitVec.ofNat 64 b.beat, BitVec.ofNat 64 n⟩
        (s.duo.own = [b] → ∃ t, exec (.duoPacketReceive p) s = .next t ∧ t.duo.own = [] ∧ t.duo.ptn = [] ∧ t.duo.mis = s.duo.mis ∧
          t.duo.lastPtn = max s.duo.lastPtn b.beat ∧ t.job = s.job ∧ t.evt = s.evt) ∧
        (∀ o, s.duo.own = [o] → o.beat = b.beat → o ≠ b → stops o.count) ∧
        (s.duo.own = [] → b.beat ≤ s.drn.beat → stops 0) ∧
        (s.duo.own = [] → s.drn.beat < b.beat → ∃ t, exec (.duoPacketReceive p) s = .next t ∧ t.duo.ptn = [b] ∧ t.job = s.job)) ∧
      (p.part = 1 → ∃ t, exec (.duoPacketReceive p) s = .next t ∧ t.job = s.job ∧ t.duo.ptnRds = s.duo.ptnRds ++
        (List.range (p.payload.length / 8)).map (fun i => BitVec.ofNat 64 (leOf ((p.payload.drop (8 * i)).take 8)))) ∧
      (p.part = 2 →
        let d : DWord := BitVec.ofNat 64 (leOf (p.payload.take 8))
        ∃ t, exec (.duoPacketReceive p) s = .next t ∧ t.duo.ptnLoad = some d ∧
          (s.jobSt = .armed → d.toNat ≠ s.loadDigest → t.jobSt = .faulted) ∧
          (s.jobSt ≠ .armed ∨ d.toNat = s.loadDigest → t.jobSt = s.jobSt)))) ∧
  (∀ (s : State) (rds : List DWord),
    (s.duo.pendMis = none → exec (.duoRdExchangeComplete rds) s = .next s) ∧
    ∀ b, s.duo.pendMis = some b →
      let t := s.runTo .ahead
      let first := firstRd ((t.duo.rds.filter (fun r => r.1 == b)).map (fun r => r.2)) (t.duo.ptnRds ++ rds)
      (first = none → exec (.duoRdExchangeComplete rds) s = .next t) ∧
      ∀ x d e, first = some (x, d, e) → ∃ u, exec (.duoRdExchangeComplete rds) s = .next u ∧ u.duo.rdOwn = d ∧ u.duo.rdPtn = e ∧
        u.duo.pendMis = none ∧ u.jobSt = (if t.live then .faulted else t.jobSt) ∧
        ∀ i c, x = some (i, c) → u.duo.idx = BitVec.ofNat 64 i ∧
          (t.live = true → t.ring.fltCode = 0 → u.ring.fltIdx = BitVec.ofNat 64 i ∧ u.ring.fltCode = 0xA011)) ∧
  ∀ s : State,
    let pairs := s.duoOn = true ∧ s.live = true ∧ s.duo.lost = false
    (¬pairs → exec .duoPartnerSilent s = .next s) ∧
    (pairs → s.cfg 0x010D ≠ 0 →
      exec .duoPartnerSilent s = .next (({ s with duo := { s.duo with lost := true } } : State).ev 0xA013 s.duo.lastPtn 0)) ∧
    (pairs → s.cfg 0x010D = 0 → ∃ t, exec .duoPartnerSilent s = .next t ∧ t.duo.lost = true ∧ t.jobSt = .faulted ∧
      (s.ring.fltCode = 0 → t.ring.fltCode = 0xA013))

/-- The collective protocol's flows (R326 to R330): a good chunk of one packet is placed whole, one with a wrong
digest raises 0x4011 and is not acknowledged, so that it is sent again; a repetition, and a packet for another job,
is dropped and counted; a full reserve or a resetting device answers BUSY. An acknowledgement releases what every
module of the rank has covered, and what the window holds then leaves but for chunks that wait for a tag (R160); a
packet's timeout sends it again, counts, ends a BUSY, and raises 0x6010 once at NET_RETRYMAX; BUSY holds the flow
back for one timeout. Rests on the model's choices of log entries 55, 56, 105 and 145. -/
def Obligations.FlowsReliable : Prop :=
  (∀ (s : State) (p : Packet) (fec : FecObs), s.Admits p →
    let u := s.countFec fec
    let r := p.srank.toNat
    let c : ChunkRx := ⟨r, p.stepw, p.cmdw, p.seg.toNat, p.part.toNat, p.chunk.toNat, p.cdig, [(0, p.payload)], [p.psn], false, 0⟩
    (s.dev = .recovering ∨ s.reserveFull p = true → ∃ t, exec (.dataPacketReceive ⟨p, fec⟩) s = .next t ∧ t.net.chunks = s.net.chunks ∧
      t.net.busy = bump s.net.busy 1 ∧ t.net.flows = s.net.flows ∧
      t.net.tx = s.net.tx ++ s.framesOf r { s.packet 7 r p.stepw p.cmdw with psn := p.psn }) ∧
    (s.dev ≠ .recovering → s.reserveFull p = false →
      (s.net.chunks.find? (fun c => c.takes p) = none → p.pkt = 0 →
        (pd61 s.key p.payload = p.cdig.toNat → ∃ t, exec (.dataPacketReceive ⟨p, fec⟩) s = .next t ∧
          { c with whole := true, psns := [] } ∈ t.net.chunks ∧ t.net.fecCor = u.net.fecCor ∧ t.net.fecUnc = u.net.fecUnc ∧
          t.evt = u.evt ∧ s.SameMems t) ∧
        (pd61 s.key p.payload ≠ p.cdig.toNat → p.payload.length < 4096 ∨ s.chunkWant c = some p.payload.length →
          ∃ t, exec (.dataPacketReceive ⟨p, fec⟩) s = .next t ∧
          { c with pkts := [], psns := [], tries := 1 } ∈ t.net.chunks ∧ (t.net.flow r).rxNext = (s.net.flow r).rxNext ∧
          (t.net.flow r).rxOoo = (s.net.flow r).rxOoo ∧ t.evt = (u.evChunk 0x4011 c).evt ∧ s.SameMems t)) ∧
      ∀ x, s.net.chunks.find? (fun c => c.takes p) = some x → x.whole = true →
        ∃ t, exec (.dataPacketReceive ⟨p, fec⟩) s = .next t ∧ t.net.chunks = s.net.chunks ∧ t.net.dupDrop = bump s.net.dupDrop 1 ∧
          t.evt = (if p.cdig = x.cdig then u.evt else (u.copiesDiffer p).evt) ∧ s.SameMems t)) ∧
  (∀ (s : State) (p : Packet) (fec : FecObs),
    (s.dev = .off ∨ s.dev = .booting → exec (.dataPacketReceive ⟨p, fec⟩) s = .next s) ∧
    (s.dev ≠ .off → s.dev ≠ .booting → s.rcv.parked = none → p.ver ≠ 1 ∨ s.jobSt = .empty ∨ p.jtag ≠ s.job.tag →
      let u := s.countFec fec
      exec (.dataPacketReceive ⟨p, fec⟩) s = .next { u with net := { u.net with badTag := bump s.net.badTag 1 } })) ∧
  (∀ (s : State) (p : Packet), s.Admits p →
    let f := s.net.flow p.srank.toNat
    let covered := fun (x : TxPkt) =>
      let d := (x.pkt.psn - p.psn).toNat
      d = 0 ∨ 2 ^ 31 ≤ d ∨ (d ≤ 64 ∧ p.cdig.getLsbD (d - 1) = true)
    let lacks := fun (x : TxPkt) => ∃ m ∈ s.modulesOf p.srank.toNat, m ∉ x.acked ∧ ¬(covered x ∧ m = p.dup.toNat % 2)
    ∃ t, exec (.ackPacketReceive p) s = .next t ∧ s.SameMems t ∧
      (∀ x ∈ f.unacked, lacks x → ∃ y ∈ (t.net.flow p.srank.toNat).unacked, y.pkt = x.pkt ∧ y.tries = 0) ∧
      (∀ y ∈ (t.net.flow p.srank.toNat).unacked, ∃ x ∈ f.unacked, y.pkt = x.pkt ∧ lacks x) ∧
      (f.busy = false → ∀ y ∈ sendWindow 0 (t.net.flow p.srank.toNat).unacked,
        y.sent = true ∨ t.tagsOut p.srank.toNat y.pkt = true)) ∧
  (∀ (s : State) (rank : Nat), s.jobSt ≠ .empty → s.net.flows.any (fun g => g.rank == rank) = true →
    ((s.net.flow rank).rxPend = 0 → exec (.ackTimer rank) s = .next s) ∧
    ((s.net.flow rank).rxPend ≠ 0 → ∃ t, exec (.ackTimer rank) s = .next t ∧ (t.net.flow rank).rxPend = 0 ∧
      t.net.tx = s.net.tx ++ s.framesOf rank { s.packet 2 rank s.curStepWord 0 with
        psn := (s.net.flow rank).rxNext - 1, cdig := BitVec.ofNat 64 (s.net.flow rank).bitmap })) ∧
  (∀ (s : State) (rank : Nat) (psn : Word), s.jobSt ≠ .empty → s.net.flows.any (fun g => g.rank == rank) = true →
    let f := s.net.flow rank
    (f.unacked.find? (fun y => y.pkt.psn == psn && y.sent) = none →
      (f.busy = false ∨ (∃ y ∈ f.unacked, y.sent = true) → exec (.retransmitTimeout rank psn) s = .next s) ∧
      (f.busy = true → (∀ y ∈ f.unacked, y.sent = false) → exec (.retransmitTimeout rank psn) s =
        .next (({ s with net := s.net.setFlow { f with busy := false } } : State).flush rank))) ∧
    ∀ x, f.unacked.find? (fun y => y.pkt.psn == psn && y.sent) = some x →
      let resets := s.net.peers.any (fun q => q.rank == rank && q.st == .recovering) = true ∨
        (s.duoOn = true ∧ rank = s.job.desc.rank ∧ s.duo.ptnDev = 5)
      let n := if resets then x.tries else x.tries + 1
      ∃ t, exec (.retransmitTimeout rank psn) s = .next t ∧ t.net.retx = bump s.net.retx 1 ∧ (t.net.flow rank).busy = false ∧
        (∀ m ∈ s.modulesOf rank, m ∉ x.acked → s.frameOf rank x.pkt m ∈ t.net.tx.drop s.net.tx.length) ∧
        (∀ y ∈ (t.net.flow rank).unacked, y.pkt.psn = psn → y.tries = n) ∧
        (∀ y ∈ sendWindow 0 (t.net.flow rank).unacked, y.sent = true ∨ t.tagsOut rank y.pkt = true) ∧ s.SameMems t ∧
        t.evt = (if s.cfg 0x0106 ≤ n ∧ f.told = false then s.evt.add ⟨0x6010, 0xFF, false, 0, FieldRef.nil, noIdx, s.drn.beat,
          s.ptp.wall, BitVec.ofNat 64 rank, BitVec.ofNat 64 n⟩ else s.evt)) ∧
  ∀ (s : State) (p : Packet), s.Admits p →
    exec (.busyPacketReceive p) s = .next { s with net := s.net.setFlow { s.net.flow p.srank.toNat with busy := true } }

/-- Peers (R341 to R343, R345): a FLAG waits once for its DECIDE, of which 4,096 may wait; keepalives of the current
and the parked job go out with their state words and set the peer's state, silence and settling change it; a RESYNC
makes every kept packet of its two steps unacknowledged again, or is refused, and a refusal ends this rank's own
replay. Rests on the model's choices of log entries 57, 58, 59 and 77. -/
def Obligations.PeerStates : Prop :=
  (∀ (s : State) (p : Packet), s.Admits p →
    let old := s.net.flagRx.find? (fun x => x.rank == p.srank.toNat && x.stepw == p.stepw)
    let full := s.ownFlag p.stepw = false ∧ 4096 ≤ (s.net.flagRx.filter (fun x => !s.ownFlag x.stepw)).length
    (old = none → s.decided p.stepw = false → ¬full →
      ∃ t x, exec (.flagPacketReceive p) s = .next t ∧ t.net.flagRx = x :: s.net.flagRx ∧ x.rank = p.srank.toNat ∧
        x.stepw = p.stepw ∧ x.l = p.cdig.getLsbD 0 ∧ t.net.dupDrop = s.net.dupDrop) ∧
    (old = none → s.decided p.stepw = false → full → ∃ t, exec (.flagPacketReceive p) s = .next t ∧ t.net.flagRx = s.net.flagRx ∧
      t.net.busy = bump s.net.busy 1 ∧ t.net.flows = s.net.flows) ∧
    (old = none → s.decided p.stepw = true → ∃ t, exec (.flagPacketReceive p) s = .next t ∧ t.net.flagRx = s.net.flagRx ∧
      t.net.dupDrop = bump s.net.dupDrop 1) ∧
    (∀ y, old = some y → ∃ t, exec (.flagPacketReceive p) s = .next t ∧ t.net.flagRx = s.net.flagRx ∧
      t.net.dupDrop = bump s.net.dupDrop 1 ∧ t.evt = if y.l = p.cdig.getLsbD 0 then s.evt else (s.copiesDiffer p).evt)) ∧
  (∀ s : State,
    let frames := fun (u : State) (dev : Nat) (js : JobSt) (n b : Nat) => u.keepaliveRanks.flatMap (fun r =>
      u.framesOf r { u.packet 5 r u.curStepWord 0 with cdig := BitVec.ofNat 64 (stateWord dev js n b) })
    (s.dev = .off ∨ s.dev = .booting → exec .keepaliveSend s = .next s) ∧
    (s.dev ≠ .off → s.dev ≠ .booting →
      let mine := if s.jobSt = .empty then [] else frames s s.devst s.jobSt s.rcv.count s.drn.beat
      (s.rcv.parked = none → exec .keepaliveSend s = .next { s with net := { s.net with tx := s.net.tx ++ mine } }) ∧
      ∀ q, s.rcv.parked = some q →
        let u := { s with job := q.job, jobSt := .paused, net := s.net.withJob q.net }
        ∃ t, exec .keepaliveSend s = .next t ∧ t.net.tx = s.net.tx ++ mine ++ frames u s.devst .paused q.count q.at_ ∧ t.job = s.job ∧
          t.jobSt = s.jobSt)) ∧
  (∀ (s : State) (p : Packet), s.Admits p →
    let dv := bits p.cdig.toNat 63 61
    let js := bits p.cdig.toNat 60 57
    (p.srank.toNat = s.job.desc.rank → exec (.keepaliveReceive p) s = .next (if s.duoOn then
      { s with duo := { s.duo with ptnArmed := decide (2 ≤ js ∧ js ≤ 5), ptnDev := dv } } else s)) ∧
    ∀ old, p.srank.toNat ≠ s.job.desc.rank → s.net.peerSt p.srank.toNat = some old →
      ∃ t, exec (.keepaliveReceive p) s = .next t ∧ t.job = s.job ∧ t.net.peerSt p.srank.toNat = some (
        if dv = 5 then .recovering else if dv = 6 ∨ js = 6 ∨ js = 7 then .stopped else if dv = 3 then .up else old)) ∧
  (∀ (s : State) (rank : Nat) (old : PeerSt), s.jobSt ≠ .empty → s.net.peerSt rank = some old →
    (∃ t, exec (.peerSilent rank) s = .next t ∧ t.net.peerSt rank = some .silent ∧ t.job = s.job) ∧
    (∃ t, exec (.peerRejoinSettle rank) s = .next t ∧ t.net.peerSt rank = some (if old = .rejoined then .up else old) ∧ t.job = s.job)) ∧
  ∀ (s : State) (p : Packet), s.Admits p →
    let r := p.srank.toNat
    let f := s.net.flow r
    let refuses := p.drank = p.srank ∧ p.len = 0
    let lost := s.lostTo r p.stepw = true ∨ s.lostTo r (s.wordAfter p.stepw) = true
    (f.took p.psn = true → ∃ t, exec (.resyncReceive p) s = .next t ∧ t.net.dupDrop = bump s.net.dupDrop 1 ∧ t.job = s.job ∧
      t.jobSt = s.jobSt ∧ t.net.peers = s.net.peers) ∧
    (f.took p.psn = false →
      (refuses → ∃ t, exec (.resyncReceive p) s = .next t ∧
        t.jobSt = (if s.live = true ∧ s.rcv.replayTo.isSome = true then .faulted else s.jobSt)) ∧
      ∀ old, ¬refuses → s.net.peerSt r = some old → ∃ t, exec (.resyncReceive p) s = .next t ∧ t.net.peerSt r = some .rejoined ∧
        (¬lost → (∀ k ∈ s.net.retain, k.1 = p.stepw ∨ k.1 = s.wordAfter p.stepw → k.2.drank = p.srank →
            ∃ x ∈ (t.net.flow r).unacked, x.pkt.psn = k.2.psn) ∧
          (f.busy = false → ∀ y ∈ sendWindow 0 (t.net.flow r).unacked, y.sent = true ∨ t.tagsOut r y.pkt = true)) ∧
        (lost → ∃ x ∈ (t.net.flow r).unacked, x.pkt.type = 6 ∧ x.pkt.len = 0 ∧ x.pkt.drank = BitVec.ofNat 16 s.job.desc.rank))

/-- Peer operations (R150, R336, R337, R403): an operation of a connected rank with this job's remote key that the
page attributes allow reads or writes the bytes it names, in HBM or in a scratchpad, a write to a protected page
behind that page's copy, a read raising 0x3011 for each bad line it meets; another is refused with 0x6012 and changes
no memory; a resetting device takes none. Rests on the model's choices of log entries 62 and 146. -/
def Obligations.PeerOperations : Prop :=
  (∀ (s : State) (rank addr len : Nat) (rkey : Word) (core : Option Nat) (data : List Byte),
    (s.dev = .recovering ∨ s.dev = .off ∨ s.dev = .booting →
      exec (.peerRdmaWrite ⟨rank, rkey⟩ core addr data) s = .next s ∧ exec (.peerRdmaRead ⟨rank, rkey⟩ core addr len) s = .next s) ∧
    (s.dev ≠ .recovering → s.dev ≠ .off → s.dev ≠ .booting → s.rcv.parked = none → s.jobSt = .empty ∨ rkey ≠ s.job.tag →
      exec (.peerRdmaWrite ⟨rank, rkey⟩ core addr data) s = .next (({ s with reply := [] } : State).ev 0x6012 rank addr) ∧
      exec (.peerRdmaRead ⟨rank, rkey⟩ core addr len) s = .next (({ s with reply := [] } : State).ev 0x6012 rank addr))) ∧
  ∀ (s : State) (rank addr : Nat), s.dev ≠ .recovering → s.dev ≠ .off → s.dev ≠ .booting → s.jobSt ≠ .empty →
    let admits := fun (core : Option Nat) (len : Nat) (wr : Bool) =>
      s.rdmaFrom rank = true ∧ s.jobSt.takesPeers = true ∧ s.peerOk s.pat.cur core addr len wr = true
    let refused : State := ({ s with reply := [] } : State).ev 0x6012 rank addr
    (∀ core data, ¬admits core data.length true → exec (.peerRdmaWrite ⟨rank, s.job.tag⟩ core addr data) s = .next refused) ∧
    (∀ core len, ¬admits core len false → exec (.peerRdmaRead ⟨rank, s.job.tag⟩ core addr len) s = .next refused) ∧
    (∀ data, admits none data.length true → (∀ p ∈ pagesIn addr data.length, s.guarded p = false) →
      ∃ t, exec (.peerRdmaWrite ⟨rank, s.job.tag⟩ none addr data) s = .next t ∧ t.hbm = s.hbm.setBytes addr data ∧ t.cores = s.cores ∧
        t.host = s.host ∧ t.mqt = s.mqt ∧ t.job = s.job) ∧
    (∀ data e p, admits none data.length true → s.mqt.epoch = some e → pagesIn addr data.length = [p] → s.guarded p = true →
      (∀ q, s.freeStage e (p / 110592) = some q → ∃ t, exec (.peerRdmaWrite ⟨rank, s.job.tag⟩ none addr data) s = .next t ∧
        t.hbm = (s.touchCopy p).hbm.setBytes addr data ∧ t.mqt = (s.touchCopy p).mqt) ∧
      (s.freeStage e (p / 110592) = none → ∃ t, exec (.peerRdmaWrite ⟨rank, s.job.tag⟩ none addr data) s = .next t ∧ t.hbm = s.hbm ∧
        t.mqt = { s.mqt with late := s.mqt.late ++ [⟨.hbm, addr, data⟩] })) ∧
    (∀ c data, admits (some c) data.length true → s.logical c < s.cores.length →
      ∃ t, exec (.peerRdmaWrite ⟨rank, s.job.tag⟩ (some c) addr data) s = .next t ∧ t.hbm = s.hbm ∧
        (t.core (s.logical c)).spd = (s.core (s.logical c)).spd.setBytes addr data ∧ s.curStepWord ∈ t.net.rdmaSpd ∧
        ∀ k, k ≠ s.logical c → t.core k = s.core k) ∧
    ∀ core len, admits core len false → exec (.peerRdmaRead ⟨rank, s.job.tag⟩ core addr len) s = .next (match core with
      | none => { s.readBad addr len with reply := s.hbm.read addr len }
      | some c => { s with reply := (s.core (s.logical c)).spd.read addr len })

/-- The fabric and its links (R319, R352): the device answers for its job address, lowers a rate on congestion, obeys
priority flow control on its priority, and reports each link's ups, downs and training failures.
Rests on the model's choices of log entry 61. -/
def Obligations.Fabric : Prop :=
  (∀ (s : State) (port : Nat) (addr : List Byte),
    let hears := s.dev ≠ .off ∧ s.dev ≠ .booting ∧ s.jobPort port = true ∧ s.net.portUp.getD port false = true
    (hears → exec (.addressResolutionRequest port addr) s = .next { s with
      reply := if mapped addr = imgBytes s.img 0x0102 then imgBytes s.img 0x0102 else [] }) ∧
    (¬hears → exec (.addressResolutionRequest port addr) s = .next s)) ∧
  (∀ (s : State) (port : Nat), exec (.congestionNotification port) s = .next (if s.jobPort port then
    { s with net := { s.net with slowed := s.net.slowed.set port true } } else s)) ∧
  (∀ (s : State) (port : Nat) (prio : BitVec 3) (b : Bool),
    exec (.pfcPauseFrame port prio b) s = .next (if s.net.portUp.getD port false = true ∧ prio.toNat = s.cfg 0x0103 then
      { s with net := { s.net with portPfc := s.net.portPfc.set port b } } else s)) ∧
  (∀ (s : State) (port : Nat) (phy : BitVec 4) (lanes : Byte), port < s.nPorts → s.dev ≠ .off → s.dev ≠ .booting →
    exec (.ethLinkUp port phy lanes) s = .next (({ s with net := { s.net with
      portUp := s.net.portUp.set port true, portAn := s.net.portAn.set port true, phy := s.net.phy.set port phy.toNat
      laneOk := s.net.laneOk.set port lanes.toNat } } : State).ev 0x6002 port phy.toNat)) ∧
  (∀ (s : State) (port : Nat),
    (s.net.portUp.getD port false = true → exec (.ethLinkDown port) s = .next (({ s with net := { s.net with
      portUp := s.net.portUp.set port false, portAn := s.net.portAn.set port false, phy := s.net.phy.set port 0
      laneOk := s.net.laneOk.set port 0, portPfc := s.net.portPfc.set port false
      slowed := s.net.slowed.set port false } } : State).ev 0x6001 port 0)) ∧
    (s.net.portUp.getD port false = false → exec (.ethLinkDown port) s = .next s)) ∧
  ∀ (s : State) (port : Nat) (lanes : Byte), port < s.nPorts → s.dev ≠ .off → s.dev ≠ .booting →
    let all := if s.nPorts = 2 then 255 else 15
    exec (.linkTrainingFail port lanes) s = .next (({ s with net := { s.net with
      portAn := s.net.portAn.set port false, laneOk := s.net.laneOk.set port (lanes.toNat % (all + 1)) } } : State).ev
        0x6004 port (all - lanes.toNat % (all + 1)))

/-- WALL (R347, R348, R535): neither time nor a PTP or 1PPS command moves it backward; in the domain NET_PTPDOM lock
comes with the sixteenth offset in a row below 100 ns and goes above 1 µs or without Sync; a step is made only
forwards, above 1 ms and while no job bars it, and rate adjustment corrects what is left; the third good 1PPS period
makes the input valid and aligns WALL's seconds, and a period outside the band or no edge makes it invalid. Rests on
the model's choices of log entries 60 and 98. -/
def Obligations.WallDiscipline : Prop :=
  (∀ (p : Ptp) (mhz n : Nat), p.wall ≤ (p.pass mhz n).wall) ∧
  (∀ (s t : State) (i : Instr), (∃ m, i = .ptpMessage m) ∨ i = .ptpSyncTimeout ∨ (∃ e, i = .ppsEdge e) ∨ i = .ppsTimeout →
    exec i s = .next t → s.ptp.wall ≤ t.ptp.wall ∧ t.drn = s.drn ∧ t.job = s.job) ∧
  (∀ (s : State) (m : PtpSample),
    let heard := s.ptpPort = some m.port ∧ m.domain = s.cfg 0x010B
    let steps := s.jobSt.barsStep = false ∧ m.offset < -1000000
    (¬heard → exec (.ptpMessage m) s = .next s) ∧
    (heard → ∃ t, exec (.ptpMessage m) s = .next t ∧ t.ptp.port = m.port ∧ t.ptp.ofs = clamp32 m.offset ∧
      (steps → t.ptp.wall = s.ptp.wall + m.offset.natAbs ∧ t.ptp.adj = 0) ∧
      (¬steps → t.ptp.wall = s.ptp.wall ∧ t.ptp.adj = -m.offset) ∧
      t.ptp.good = (if m.offset.natAbs < 100 then s.ptp.good + 1 else 0) ∧
      (s.ptp.lock = false → (t.ptp.lock = true ↔ m.offset.natAbs < 100 ∧ 15 ≤ s.ptp.good)) ∧
      (s.ptp.lock = true → (t.ptp.lock = true ↔ m.offset.natAbs ≤ 1000)))) ∧
  (∀ s : State, ∃ t, exec .ptpSyncTimeout s = .next t ∧ t.ptp.lock = false ∧ t.ptp.good = 0 ∧ t.ptp.wall = s.ptp.wall ∧
    t.ptp.adj = 0) ∧
  (∀ (s : State) (e : PpsEdge), s.iodUp = true →
    let inBand := 999900000 ≤ e.period ∧ e.period ≤ 1000100000
    let rising := s.ptp.ppsGood = 2 ∧ 1000 ≤ e.high ∧ e.high ≤ 400000000
    let falling := s.ptp.ppsGood = 6 ∧ 600000000 ≤ e.high ∧ e.high ≤ 999999000
    let second : Int := ((s.ptp.wall : Int) - (if s.ptp.ppsGood = 6 then (e.period : Int) - e.high else 0)) % 1000000000
    (s.ptp.ppsOk = false → inBand → rising ∨ falling →
      ∃ t, exec (.ppsEdge e) s = .next t ∧ t.ptp.ppsOk = true ∧ t.ptp.ppsSwap = decide (s.ptp.ppsGood = 6) ∧
        t.ptp.adj = (if second < 500000000 then -second else 1000000000 - second) ∧
        t.evt = s.evt.add ⟨0x6033, 0xFF, false, 0, FieldRef.nil, noIdx, s.drn.beat, s.ptp.wall,
          BitVec.ofNat 64 (if s.ptp.ppsGood = 6 then 1 else 0), 0⟩) ∧
    (¬inBand ∨ (400000000 < e.high ∧ e.high < 600000000) → ∃ t, exec (.ppsEdge e) s = .next t ∧ t.ptp.ppsOk = false ∧ t.ptp.ppsGood = 0)) ∧
  ∀ s : State, s.iodUp = true → ∃ t, exec .ppsTimeout s = .next t ∧ t.ptp.ppsOk = false ∧ t.ptp.ppsGood = 0

/-! ### Memory controllers, power, clocks -/

/-- What the memory controllers and the die-to-die links do on their own (R13, R151 to R153, R307): refresh and retries
change no data; the patrol scrub counts what it finds, reports a corrected line at each multiple of the threshold and an
uncorrectable one at once, marks the latter for its next reader and leaves every other byte alone; the shard scrubber
moves to its next entry and counts and reports one whose digest differs.
Rests on the model's choices of log entries 66, 67, 113 and 146. -/
def Obligations.MemoryControllers : Prop :=
  (∀ (s : State) (k b : Nat), exec (.hbmRefresh k b) s = .next s) ∧
  (∀ (s : State) (e : BitVec 2), exec (.d2dLinkRetry e) s = .next { s with net := { s.net with
    d2d := upd s.net.d2d e.toNat (fun w => BitVec.ofNat 32 (min (w.toNat + 1) (2 ^ 32 - 1))) } }) ∧
  (∀ (s : State) (addr : Nat) (err : Option Bool),
    let powered := s.dev ≠ .off ∧ s.dev ≠ .booting ∧ s.dev ≠ .recovering ∧ s.pwr.off = false ∧ addr < 0xD800000000
    let d := addr / 0x3600000000
    let ev := fun (code : Nat) (die : Nat) (t : State) => t.evt = s.evt.add ⟨code, 0xFF, false, die, FieldRef.nil, noIdx, s.drn.beat,
      s.ptp.wall, BitVec.ofNat 64 addr, BitVec.ofNat 64 (addr / 0x200000)⟩
    (¬powered ∨ err = none → exec (.hbmPatrolScrub addr err) s = .next s) ∧
    (powered → err = some false → ∃ t, exec (.hbmPatrolScrub addr err) s = .next t ∧
      t.pci.cor = upd s.pci.cor d (fun h => addHalf h 1) ∧ t.badLines = s.badLines ∧ s.SameMems t ∧
      ((t.pci.cor.getD d 0).toNat % max 1 (s.cfg 0x0507) = 0 → ev 0x3010 0 t) ∧
      ((t.pci.cor.getD d 0).toNat % max 1 (s.cfg 0x0507) ≠ 0 → t.evt = s.evt)) ∧
    (powered → err = some true → ∃ t, exec (.hbmPatrolScrub addr err) s = .next t ∧
      t.pci.uncor = upd s.pci.uncor d (fun h => addHalf h 1) ∧ t.badLines = (if addr / 64 * 64 ∈ s.badLines then s.badLines else insertNat (addr / 64 * 64) s.badLines) ∧
      (addr / 64 * 64 ∈ s.badLines → s.SameMems t) ∧ t.cores = s.cores ∧ t.host = s.host ∧
      (∀ a, a < addr / 64 * 64 ∨ addr / 64 * 64 + 64 ≤ a → t.hbm.get a = s.hbm.get a) ∧ ev 0x3012 0 t)) ∧
  ∀ (s : State) (e : Nat) (misread : Option DWord),
    let due := s.live = true ∧ s.dev = .up ∧ s.badHeader = false ∧ s.scrubNext = some e
    let same := (match misread with | some m => m.toNat | none => s.shardDigest e) = s.hnum (s.ment e + 16) 8
    (¬due → exec (.shardScrubEntry e misread) s = .next s) ∧
    (due → same → exec (.shardScrubEntry e misread) s = .next { s with cast := { s.cast with scrub := e + 1 } }) ∧
    (due → ¬same → ∃ t r, exec (.shardScrubEntry e misread) s = .next t ∧ t.cast.scrub = e + 1 ∧
      t.hbm = s.hbm.setBytes (s.man + 24) (leBytes 4 (min (s.hnum (s.man + 24) 4 + 1) (2 ^ 32 - 1))) ∧ r.code = 0x4016 ∧
      r.arg0 = BitVec.ofNat 64 e ∧ t.evt = s.evt.add r)

/-- Bellows (R432, R435 to R437, R443): a tick sets the effective cap from the configured and runtime caps and the
inlet's derating, moves Itherm by the hottest readings and adds to the millisecond's powers; a slope interval, over once
its cycles are, sets the next ceiling to the delivered activity plus 4; a millisecond sets ρ and k from its powers, and ten outside the band enter measurement mode, a hundred inside it
leave it. Rests on the model's choices of log entries 79 and 81. -/
def Obligations.BellowsRules : Prop :=
  (∀ (s : State) (r : TickReading),
    let hot := (∃ x ∈ r.tdie, 1600 ≤ x) ∨ (∃ x ∈ r.thbm, 1520 ≤ x)
    let cool := (∀ x ∈ r.tdie, x ≤ 1552) ∧ (∀ x ∈ r.thbm, x ≤ 1472)
    (s.dev = .off ∨ s.dev = .booting → exec (.bellowsTick r) s = .next s) ∧
    (s.dev ≠ .off → s.dev ≠ .booting → s.pwr.itherm ≤ 64 →
      ∃ t, exec (.bellowsTick r) s = .next t ∧ t.pwr.pin = meanPower r.samples ∧ t.pwr.pest = s.estimate r ∧
        t.pwr.sumMeas = s.pwr.sumMeas + meanPower r.samples ∧ t.pwr.sumEst = s.pwr.sumEst + s.estimate r ∧
        t.pwr.tin = (if s.brd.tinSt = 0 then r.tin else 720) ∧ t.pwr.tout = (if s.brd.toutSt = 0 then r.tout else 0x7FFF) ∧
        t.pwr.ceff = max 1200 (min (s.cfg 0x0401) s.pwr.capRt - derate t.pwr.tin) ∧
        (hot → t.pwr.itherm = max 1 (s.pwr.itherm - 4)) ∧ (cool → t.pwr.itherm = min 64 (s.pwr.itherm + 1)) ∧
        (¬hot → ¬cool → t.pwr.itherm = s.pwr.itherm) ∧ t.drn = s.drn ∧ t.job = s.job ∧ s.SameMems t)) ∧
  (∀ s : State, exec .slopeIntervalEnd s = .next { s with pwr := { s.pwr with
    eslope := min 64 (64 * s.pwr.sumD / (s.dMax * max s.pwr.ivCyc s.clk.mhz) + 4), sumD := 0, ivCyc := 0 } }) ∧
  (∀ (p : Pwr) (mhz dMax d n : Nat),
    (p.ivCyc + n < mhz → (p.part mhz dMax d n).eslope = p.eslope ∧ (p.part mhz dMax d n).sumD = p.sumD + n * d ∧
      (p.part mhz dMax d n).ivCyc = p.ivCyc + n) ∧
    (mhz ≤ p.ivCyc + n → (p.part mhz dMax d n).eslope = min 64 (64 * (p.sumD + n * d) / (dMax * mhz) + 4) ∧
      (p.part mhz dMax d n).sumD = 0 ∧ (p.part mhz dMax d n).ivCyc = 0)) ∧
  ∀ (s : State) (m e : Nat),
    let meas := s.pwr.sumMeas + m
    let est := s.pwr.sumEst + e
    ∃ t, exec (.calibrationUpdate m e) s = .next t ∧ t.pwr.sumMeas = 0 ∧ t.pwr.sumEst = 0 ∧
    t.pwr.rho = (if est = 0 then 0xFFFF else min 0xFFFF (4096 * meas / est)) ∧ t.pwr.k = max 3481 (min 4710 t.pwr.rho) ∧
    (s.pwr.meas = false → t.pwr.meas = (decide (9 ≤ s.pwr.outMs) && decide (100 * meas < 85 * est ∨ 115 * est < 100 * meas))) ∧
    (s.pwr.meas = true → t.pwr.meas = !(decide (99 ≤ s.pwr.inMs) && decide (90 * est ≤ 100 * meas ∧ 100 * meas ≤ 110 * est))) ∧
    t.job = s.job ∧ s.SameMems t

/-- Trips and the arithmetic clock (R445, R446, R448, R466, R467): a compute trip fails the device, faults its job
and loses HBM; PWR_TRIP.CLR powers the compute part on again, each die's rail at its fused voltage for the clock in
force, once nothing is hot or wet and no sensor has failed, and else is rejected; a PLL that loses lock aligns again at the same frequency
with the same beat, and one that does not relock within 1 ms fails the device. Rests on the model's choices of log
entries 78, 82, 95, 123 and 124. -/
def Obligations.TripsAndClock : Prop :=
  (∀ (s : State) (cause : TripCause) (reading : Nat),
    let met : Prop := match cause with | .tdie => 1840 ≤ reading | .thbm => 1680 ≤ reading | .leak => 3 ≤ s.brd.wetRun | .sensor => True
    (¬met ∨ s.dev = .off → exec (.computeTrip cause reading) s = .next s) ∧
    (met → s.dev ≠ .off → ∃ t, exec (.computeTrip cause reading) s = .next t ∧
      t.pwr.trip = s.pwr.trip ||| (1#6 <<< tripBit cause) ∧ t.brd.pump = (if cause = .leak then false else s.brd.pump) ∧
      (s.pwr.off = true → t.dev = s.dev ∧ t.job = s.job ∧ t.evt = s.evt ∧ s.SameMems t) ∧
      (s.pwr.off = false → s.rcv.abortPend = false → t.dev = .failed ∧ t.pwr.off = true ∧ t.hbm = [] ∧ t.wp = [] ∧ t.clk.rail = List.replicate 4 0 ∧
        (s.live = true → t.jobSt = .faulted ∧ t.job.flights = []) ∧
        (s.live = false → s.jobSt ≠ .paused → ∃ r, r.code = 0x7020 ∧ r.arg0 = BitVec.ofNat 64 t.pwr.trip.toNat ∧ t.evt = s.evt.add r)))) ∧
  (∀ (s : State) (v : Word) (inp : ResetInput), s.dev ≠ .off → s.dev ≠ .booting → s.pln.recov = false →
    let same := ∀ c ∈ s.fus.cdStep, c = s.fus.cdStep.headD (0, 0)
    let clear := (∀ x ∈ s.pwr.tdie, x ≤ 1440) ∧ (∀ x ∈ s.pwr.thbm, x ≤ 1440) ∧ s.brd.leak ≠ 1 ∧ s.brd.leak ≠ 3 ∧
      s.pwr.badSensor = false ∧ s.pwr.off = true ∧ s.pln.locked = true ∧ same
    (v.getLsbD 31 = false → ∃ t, exec (.pwrTripClr v inp) s = .next t ∧ t.pwr.trip = s.pwr.trip &&& ~~~(v.truncate 6) ∧
      t.dev = s.dev ∧ t.job = s.job ∧ s.SameMems t) ∧
    (v.getLsbD 31 = true → clear → cleanReset inp → s.Settled → ∃ t, exec (.pwrTripClr v inp) s = .next t ∧ t.dev = .up ∧
      t.pwr.off = false ∧ t.clk.aligned = true ∧ t.clk.rail = (List.range 4).map (fun d => Config.coreRail d s.clk.mhz) ∧
      t.jobSt = s.jobSt ∧ t.hbm = []) ∧
    (v.getLsbD 31 = true → ¬clear → ∃ t r, exec (.pwrTripClr v inp) s = .next t ∧ t.dev = s.dev ∧ t.job = s.job ∧
      r.code = 0x9010 ∧ t.evt = s.evt.add r)) ∧
  (∀ (s : State) (die : Nat) (fs : Option (List (Nat × Nat))),
    let loses := die < 4 ∧ s.clk.stopped = false ∧ s.dev ≠ .off ∧ s.dev ≠ .booting
    let again := die < 4 ∧ s.clk.stopped = true ∧ s.clk.relock ≠ [] ∧ s.dev ≠ .off ∧ s.dev ≠ .booting
    (¬loses → ¬again → exec (.pllLockLoss die fs) s = .next s) ∧
    (loses → fs = some [] → s.clk.wake = [] → (s.jobSt = .held ↔ s.drn.votes ≠ []) →
      ∃ t, exec (.pllLockLoss die fs) s = .next t ∧ t.clk.aligned = true ∧ t.clk.stopped = false ∧
        t.clk.mhz = s.clk.mhz ∧ t.drn.beat = s.drn.beat ∧ s.drn.cyc + 1024 ≤ t.drn.cyc ∧ t.jobSt = s.jobSt ∧ s.SameMems t ∧
        (s.live = false → t.drn.cyc = s.drn.cyc + 1024 ∧ ∃ r, r.code = 0x2062 ∧ t.evt = s.evt.add r)) ∧
    (∀ l, loses ∨ again → fs = some l → 3 ≤ l.length → ∃ t, exec (.pllLockLoss die fs) s = .next t ∧ t.dev = .failed) ∧
    (loses ∨ again → fs = none → ∃ t r, exec (.pllLockLoss die fs) s = .next t ∧ t.clk.relock = insertNat die s.clk.relock ∧
      t.clk.stopped = true ∧ t.clk.aligned = false ∧ t.drn.beat = s.drn.beat ∧ (again → r.code = 0x2062 ∧ t.evt = s.evt.add r))) ∧
  ∀ (s : State) (die : Nat),
    (die ∈ s.clk.relock → ∃ t, exec (.relockTimeout die) s = .next t ∧ t.dev = .failed ∧ t.clk.relock = [] ∧
      (s.live = true → t.jobSt = .faulted)) ∧
    (die ∉ s.clk.relock → exec (.relockTimeout die) s = .next s)

/-! ### Boot, flash, quotes -/

/-- The boot sequence (R468, R469, R484, R490, R536), at power-on and at PLN_RESTART (R489): with both images good,
every stepping equal and the clock aligned the device comes up READY, EMPTY and locked, with Drone 0, HBM lost, the
effective image's cap in force and its identity key derived; without a firmware slot it stands in recovery, FAILED;
with a bad factory image, unequal steppings or a clock that does not align it is FAILED; without REF25 it stays
BOOTING. Rests on the model's choices of log entries 83, 84, 85, 86, 87, 96 and 133. -/
def Obligations.BootSequence : Prop :=
  (∀ (s : State) (inp : BootInput),
    let may := (s.brd.stage = .charging ∨ s.brd.stage = .closed) ∧ (s.dev = .off ∨ s.dev = .booting)
    (may → exec (.powerOn inp) s = .next (({ s with brd := { s.brd with stage := .closed } } : State).boot inp)) ∧
    (¬may → exec (.powerOn inp) s = .next s)) ∧
  (∀ (s : State) (v : Word) (inp : BootInput),
    let free := (s.jobSt = .empty ∨ s.jobSt = .faulted ∨ s.jobSt = .done) ∧ s.rcv.parked = none ∧ s.pln.flash = []
    (v.getLsbD 31 = false ∨ s.dev = .off ∨ s.dev = .booting → exec (.moduleRestart v inp) s = .next s) ∧
    (v.getLsbD 31 = true → s.dev ≠ .off → s.dev ≠ .booting →
      (free → exec (.moduleRestart v inp) s = .next (s.boot inp)) ∧
      (¬free → exec (.moduleRestart v inp) s = .next (s.ev 0x9010 0 s.jobSt.code)))) ∧
  ∀ (s : State) (inp : BootInput),
    let u := (s.fresh .booting).bootRecord.bootFirmware inp
    let v := u.1.readImages inp
    let w := v.1.bootRecords inp
    let b := s.boot inp
    (s.brd.ref25 = false → b.dev = .booting) ∧
    (s.brd.ref25 = true → u.2 = false → b.dev = .failed ∧ b.pln.recov = true ∧ b.pwr.off = true) ∧
    (s.brd.ref25 = true → u.2 = true → v.2 = false ∨ w.2 = false → b.dev = .failed ∧ b.pwr.off = true ∧ b.pln.locked = true) ∧
    (s.brd.ref25 = true → u.2 = true → v.2 = true → w.2 = true → 3 ≤ inp.reset.alignFails.length → b.dev = .failed) ∧
    (s.brd.ref25 = true → u.2 = true → v.2 = true → w.2 = true → (w.1.powerCompute inp.reset).dev ≠ .failed →
      b.dev = .up ∧ b.jobSt = .empty ∧ b.pln.locked = true ∧ b.drn.beat = 0 ∧ b.hbm = [] ∧ b.pwr.off = false ∧
      b.pwr.ceff = b.effCap 0 ∧ b.pln.idKey = some (identityKey s.fus.secret))

/-- Flash updates (R476, R482, R488): an accepted slot, user image or erase begins its write, an accepted floor raise
takes effect at once; a second update, one that is too long, one whose source cannot be read and one that fails its
check are rejected with 0x8015 and their reasons, an image that fails behind 0x8001; in recovery mode only a firmware
slot is written; a finished write, an update's or the device's own, leaves both copies with the next SEQ and the new
contents, and a copy that fails its readback raises 0x8014. Rests on the model's choices of log entries 91, 93 and 107. -/
def Obligations.FlashUpdates : Prop :=
  (∀ s : State, s.dev ≠ .off → s.dev ≠ .booting →
    let said := fun (code a b : Nat) => (⟨code, 0xFF, false, 0, FieldRef.nil, noIdx, s.drn.beat, s.ptp.wall, BitVec.ofNat 64 a,
      BitVec.ofNat 64 b⟩ : EvRec)
    let refuses := fun (i : Instr) (op reason : Nat) (e : Evt) => ∃ t, exec i s = .next t ∧ t.pln.updReason = reason ∧ t.nv = s.nv ∧
      t.fus = s.fus ∧ t.evt = e.add (said 0x8015 op reason) ∧ t.pln.flash = s.pln.flash ∧
      t.pln.updSt = (if reason = 1 then s.pln.updSt else 3)
    let rejects := fun (i : Instr) (op reason : Nat) => refuses i op reason s.evt
    let begun := fun (u : Upd) => ({ s with pln := { s.pln with flash := s.pln.flash ++ [u], updSt := 1 } } : State)
    let idle := if s.pln.slot = 1 then 0 else 1
    (s.pln.recov = true → s.updating = false → ∀ fw, s.pln.updLen.toNat ≤ 0x2000000 → s.fwFault fw = none →
      ∃ t n, exec (.firmwareSlotWrite fw .ok) s = .next t ∧ n < 2 ∧ t.pln.flash = s.pln.flash ++ [.slot n fw] ∧ t.pln.updSt = 1) ∧
    (s.pln.recov = true → (∀ p rd, exec (.userImageWrite p rd) s = .next s) ∧ exec .userImageErase s = .next s ∧
      exec .svnFloorRaise s = .next s) ∧
    (s.pln.recov = false → s.updating = true → (∀ fw rd, rejects (.firmwareSlotWrite fw rd) 1 1) ∧
      (∀ p rd, rejects (.userImageWrite p rd) 2 1) ∧ rejects .userImageErase 3 1 ∧ rejects .svnFloorRaise 4 1) ∧
    (s.pln.recov = false → s.updating = false →
      (∀ fw rd, 0x2000000 < s.pln.updLen.toNat → rejects (.firmwareSlotWrite fw rd) 1 3) ∧
      (∀ fw rd, s.pln.updLen.toNat ≤ 0x2000000 → rd ≠ .ok → rejects (.firmwareSlotWrite fw rd) 1 4) ∧
      (∀ fw w, s.pln.updLen.toNat ≤ 0x2000000 → s.fwFault fw = some w →
        refuses (.firmwareSlotWrite fw .ok) 1 2 (s.evt.add (said 0x8001 idle w))) ∧
      (∀ fw, s.pln.updLen.toNat ≤ 0x2000000 → s.fwFault fw = none →
        exec (.firmwareSlotWrite fw .ok) s = .next (begun (.slot idle fw))) ∧
      (∀ p rd, 0x40000 < s.pln.updLen.toNat → rejects (.userImageWrite p rd) 2 3) ∧
      (∀ p rd, s.pln.updLen.toNat ≤ 0x40000 → rd ≠ .ok → rejects (.userImageWrite p rd) 2 4) ∧
      (∀ p e, s.pln.updLen.toNat ≤ 0x40000 → s.userImage p = .inr e → rejects (.userImageWrite p .ok) 2 2) ∧
      (∀ p m, s.pln.updLen.toNat ≤ 0x40000 → s.userImage p = .inl m → exec (.userImageWrite p .ok) s = .next (begun (.user p))) ∧
      exec .userImageErase s = .next (begun .erase) ∧
      ((s.fwSlot s.pln.slot).st = .good ∧ s.fus.svnFloor < s.pln.fwSvn → ∃ t, exec .svnFloorRaise s = .next t ∧
        t.fus = { s.fus with svnFloor := s.pln.fwSvn } ∧ t.pln.updSt = 2 ∧ t.nv = s.nv ∧ t.evt = s.evt) ∧
      (¬((s.fwSlot s.pln.slot).st = .good ∧ s.fus.svnFloor < s.pln.fwSvn) → rejects .svnFloorRaise 4 2))) ∧
  ∀ (s : State) (fl1 fl0 : Bool),
    (s.pln.flash = [] → exec (.flashUpdateComplete fl1 fl0) s = .next s) ∧
    ∀ u r, s.pln.flash = u :: r →
      let i := match u with | .own i _ => i | .user _ | .erase => 2 | .slot n _ => 6 + n
      let b := match u with | .own _ b => b | .user p => .user p | .erase => .user [] | .slot _ fw => .firmware fw
      let k := copyOf i (s.nv.at_ i).nextSeq b
      let lost := fun (d : Nat) => s.evt.add ⟨0x8014, 0xFF, false, 0, FieldRef.nil, noIdx, s.drn.beat, s.ptp.wall,
        BitVec.ofNat 64 (regionOff i), BitVec.ofNat 64 d⟩
      i < s.nv.copies.length → ∃ t, exec (.flashUpdateComplete fl1 fl0) s = .next t ∧
        ((∀ j c, u ≠ .own j c) → t.pln.updSt = (if fl1 then 2 else 3)) ∧
        (fl1 = false → t.nv.slots = s.nv.slots ∧ t.nv.at_ i = ⟨(s.nv.at_ i).fl0, some k.torn⟩ ∧ t.evt = lost 1 ∧ t.pln.flash = r) ∧
        (fl1 = true → t.evt = (if fl0 then s.evt else lost 0) ∧
          (u ≠ .erase → t.nv.at_ i = ⟨some (if fl0 then k else k.torn), some k⟩) ∧
          (u = .erase → t.nv.at_ i = ⟨if fl0 then none else some k.torn, none⟩) ∧
          (∀ n fw, u = .slot n fw → n < s.nv.slots.length → t.fwSlot n = ⟨.pending, 0, fw.version⟩ ∧ t.pln.flash = r ++ [.own 0 t.control]) ∧
          ((∀ n fw, u ≠ .slot n fw) → t.pln.flash = r))

/-- A quote (R490, R493) over PCIe is written at PLN_QADDR + 64, and one over the management bus behind the nonce in
the mailbox, 5,556 bytes with the hash-based signature and 320 without it, with the nonce in bytes 32 to 63 and the
identity key's signature of its head behind that; PLN_QSTAT reaches done. A request beside one in progress is
rejected, and in recovery mode there is none. Rests on the model's choices of log entries 94, 107 and 133. -/
def Obligations.QuoteServed : Prop :=
  ∀ (s : State) (mgmt : Bool) (nonce : List Byte) (rand lrand : Nat),
    (s.dev = .off ∨ s.dev = .booting ∨ s.pln.recov = true → exec (.quoteRequest mgmt nonce rand lrand) s = .next s) ∧
    (s.dev ≠ .off → s.dev ≠ .booting → s.pln.recov = false →
      (s.pln.qSt = 1 → exec (.quoteRequest mgmt nonce rand lrand) s = .next (s.ev 0x9010 0 s.jobSt.code)) ∧
      (s.pln.qSt ≠ 1 → nonce.length = 32 →
        ∃ t q, exec (.quoteRequest mgmt nonce rand lrand) s = .next t ∧ t.pln.qSt = 2 ∧ t.pln.qLen = q.length ∧
          q.length = (if t.pln.qHss then 5556 else 320) ∧ (q.drop 32).take 32 = (if mgmt then s.mgmt.box.read 0 32 else nonce) ∧
          (q.drop 224).take 96 = ecdsaSign (s.pln.idKey.getD ([], [])).1 (q.take 224) rand ∧
          (mgmt = false → t.host = s.host.setBytes (s.pln.qHi.toNat * 2 ^ 32 + s.pln.qLo.toNat + 64) q ∧ t.mgmt = s.mgmt) ∧
          (mgmt = true → t.mgmt = { s.mgmt with box := s.mgmt.box.setBytes 64 q } ∧ t.host = s.host) ∧
          t.hbm = s.hbm ∧ t.cores = s.cores ∧ t.job = s.job))

/-! ### Host interface and board -/

/-- Register accesses (R7, R204, R504, R524): a read of a LO word latches its HI word, and a 64-bit read of the pair
takes both from one value; another read returns the requested bytes of its word; a 64-bit write is its LO word and
then its HI word; a write that is misaligned or of another width is ignored with 0x9017, reason 5; read-only
registers ignore writes; a write of 1 to a PWR_INSTAT bit clears both copies. Rests on the model's choices of log
entries 101 and 103, and for the phase that CKM_RCVSTAT reads during a reset on log entry 144. -/
def Obligations.RegisterAccess : Prop :=
  (∀ (s : State) (off v : Nat), s.pairs.lookup off = some v → s.served off = true →
    let latch := put s.latch (off + 4) (BitVec.ofNat 32 (v / 2 ^ 32))
    latch.lookup (off + 4) = some (BitVec.ofNat 32 (v / 2 ^ 32)) ∧
    exec (.latchingRead ⟨off, 4⟩) s = .next { s with latch := latch, reply := leBytes 4 v } ∧
    exec (.latchingRead ⟨off, 8⟩) s = .next { s with latch := latch, reply := leBytes 8 v }) ∧
  (∀ (s : State) (x : Word), s.served 0x500000 = true → s.latch.lookup 0x500004 = some x →
    exec (.latchingRead ⟨0x500004, 4⟩) s = .next { s with reply := leBytes 4 x.toNat }) ∧
  (∀ (s : State) (off width : Nat), s.pairs.lookup (off / 4 * 4) = none → off / 4 * 4 ≠ 0x501014 ∨ s.dev ≠ .recovering →
    0 < width → off % 4 + width ≤ 4 →
    exec (.latchingRead ⟨off, width⟩) s = .next { s with reply := ((leBytes 4 (s.regWord (off / 4 * 4))).drop (off % 4)).take width }) ∧
  (∀ s : State, s.dev = .recovering → exec (.latchingRead ⟨0x501014, 4⟩) s =
    .next { s.progress with reply := leBytes 4 (s.progress.regWord 0x501014) }) ∧
  (∀ (s : State) (off width : Nat) (v : DWord), s.dev ≠ .off →
    (off % 8 = 0 → exec (.registerWrite off 8 v) s =
      .next ((s.writeWord off (v.truncate 32)).writeWord (off + 4) (BitVec.ofNat 32 (v.toNat / 2 ^ 32)))) ∧
    (off % 4 = 0 → exec (.registerWrite off 4 v) s = .next (s.writeWord off (v.truncate 32))) ∧
    (¬(width = 4 ∧ off % 4 = 0) → ¬(width = 8 ∧ off % 8 = 0) → exec (.registerWrite off width v) s = .next (s.ev 0x9017 5 off)) ∧
    (s.served 0x500014 = true → exec (.registerWrite 0x500014 4 v) s = .next { s with drn := { s.drn with warn := v.truncate 32 } }) ∧
    (off ∈ [0x0C, 0x100018, 0x10001C, 0x200000, 0x200008, 0x300010, 0x500000, 0x500010, 0x600000, 0x700000, 0x740400] →
      exec (.registerWrite off 4 v) s = .next s)) ∧
  ∀ (s : State) (v : Word),
    (s.served 0x300020 = false → exec (.pwrInstatClear v) s = .next s) ∧
    (s.served 0x300020 = true → ∃ t, exec (.pwrInstatClear v) s = .next t ∧
      (∀ b, b < 8 → t.brd.instat.getLsbD b = (s.brd.instat.getLsbD b && !(decide (1 ≤ b) && v.getLsbD b)) ∧
        t.brd.record.getLsbD b = (s.brd.record.getLsbD b && !(decide (1 ≤ b) && v.getLsbD b))) ∧ t.evt = s.evt ∧ s.SameMems t)

/-- The management bus (R506, R531 to R533): on either transport the permitted writes take effect and another raises
0x9017, reason 6; an SMBus request that fails its PEC is discarded; a read answers STATUS and data; an address is
assigned; a stuck line, or the loss of the pull-ups, cuts its transport off until it recovers. Rests on the model's
choices of log entries 103 and 134. -/
def Obligations.ManagementBus : Prop :=
  (∀ (s : State) (tr : Transport) (off : Nat) (v : Word) (pec : Bool), s.dev ≠ .off → s.cut tr = false → (tr = .smbus → pec = true) →
    let t := if tr = .smbus then { s with mgmt := { s.mgmt with badPec := false } } else s
    (off = 0x300000 → s.served off = true → exec (.mgmtBusWrite tr off v pec) s =
      .next { t with pwr := { s.pwr with capRt := max 1200 (v.toNat % 4096) } }) ∧
    (off = 0x200004 → s.served off = true → (v - s.evt.tail).toNat ≤ (s.evt.head - s.evt.tail).toNat →
      exec (.mgmtBusWrite tr off v pec) s = .next { t with evt := { s.evt with tail := v } }) ∧
    (0x7E0000 ≤ off → off + 4 ≤ 0x7E2000 → s.served off = true → exec (.mgmtBusWrite tr off v pec) s =
      .next { t with mgmt := { t.mgmt with box := s.mgmt.box.setBytes (off - 0x7E0000) (leBytes 4 v.toNat) } }) ∧
    (off = 0x501010 → s.served off = true → exec (.mgmtBusWrite tr off v pec) s = .next (if v.getLsbD 31 then t.trigger 1 else t)) ∧
    (off ≠ 0x501010 → off ≠ 0x200004 → off ≠ 0x300000 → off ≠ 0x700048 → ¬(0x7E0000 ≤ off ∧ off + 4 ≤ 0x7E2000) →
      exec (.mgmtBusWrite tr off v pec) s = .next (t.ev 0x9017 6 off)) ∧
    (off % 4 = 0 → off < 0x1000000 + 0x10000 * s.nCores → off ≠ 0x501014 ∨ s.dev ≠ .recovering →
      ∃ u, exec (.mgmtBusRead tr off pec) s = .next u ∧ u.reply = 0 :: leBytes 4 (s.regWord off) ∧
        (∀ x, s.pairs.lookup off = some x → s.served off = true → u.latch.lookup (off + 4) = some (BitVec.ofNat 32 (x / 2 ^ 32))) ∧
        u.mgmt = t.mgmt ∧ s.SameMems u) ∧
    (0x1000000 + 0x10000 * s.nCores ≤ off → exec (.mgmtBusRead tr off pec) s = .next { t with reply := 1 :: leBytes 4 0 })) ∧
  (∀ (s : State) (off : Nat) (v : Word), s.dev ≠ .off → s.cut .smbus = false →
    exec (.mgmtBusWrite .smbus off v false) s = .next { s with mgmt := { s.mgmt with badPec := true } } ∧
    exec (.mgmtBusRead .smbus off false) s = .next { s with mgmt := { s.mgmt with badPec := true }, reply := 2 :: leBytes 4 0 }) ∧
  (∀ (s : State) (tr : Transport) (off : Nat) (v : Word) (pec : Bool), s.cut tr = true →
    exec (.mgmtBusWrite tr off v pec) s = .next s ∧ exec (.mgmtBusRead tr off pec) s = .next s) ∧
  (∀ (s : State) (a : BitVec 7), s.dev ≠ .off → s.cut .i3c = false →
    exec (.i3cAddressAssignment a) s = .next { s with pci := { s.pci with daddr := some a } }) ∧
  ∀ (s : State) (tr : Transport) (data : Bool), s.dev ≠ .off → s.pci.stuck.length = 4 →
    (s.pci.stuck.getD (lineOf tr data) false = false → exec (.busLineRecover tr data) s = .next s ∧
      ∃ t r, exec (.busLineStuck tr data) s = .next t ∧ t.cut tr = true ∧ r.code = 0x6050 ∧ t.evt = s.evt.add r ∧ s.SameMems t) ∧
    (s.pci.stuck.getD (lineOf tr data) false = true → exec (.busLineStuck tr data) s = .next s ∧
      ∃ t r, exec (.busLineRecover tr data) s = .next t ∧
        t.pci.stuck = s.pci.stuck.set (lineOf tr data) false ∧ r.code = 0x6051 ∧ t.evt = s.evt.add r ∧ s.SameMems t)

/-- PCIe (R150, R153, R155, R498, R500 to R502, R507): training below 64 GT/s x16 raises 0x6040, and enumeration writes the
configuration space; a Function Level Reset
releases the job, drops a parked one, fails an epoch, resets the ring, MSI-X and B2BASE and begins a compute-only
reset; D3hot does so only where a job is loaded or parked; BAR2 reads and writes host pages alone, no write lands
while a job runs, and one to a protected page is copied first or waits for a staging page. Rests on the model's
choices of log entries 99, 100, 126, 131, 132 and 146. -/
def Obligations.PcieEndpoint : Prop :=
  (∀ (s : State) (sp : BitVec 4) (w : BitVec 5) (m : LinkMode), s.dev ≠ .off → 1 ≤ sp.toNat → sp.toNat ≤ 6 → w.toNat ∈ [1, 2, 4, 8, 16] →
    let t := { s with pci := { s.pci with up := true, speed := sp, width := w, flit := m.flit, degr := !(sp == 6 && w == 16) } }
    let u := (if sp = 6 ∧ w = 16 then t else t.ev 0x6040 sp.toNat w.toNat).configure m
    exec (.pcieLinkTrained sp w m) s = .next u ∧ u.pci.cfg = ⟨m.msix, m.payload, m.readReq, m.noTimeout, m.relaxed, false, s.pci.cfg.aer⟩) ∧
  (∀ (s : State) (k : PcieResetKind), s.dev = .up → ∃ t, exec (.pcieReset k) s = .next t ∧ t.jobSt = .empty ∧
    t.rcv.parked = none ∧ t.mqt.epoch = none ∧ t.dev = .recovering ∧ t.ring.baseLo = 0 ∧ t.ring.baseHi = 0 ∧ t.ring.log2 = 0 ∧
    t.ring.cons = 0 ∧ t.ring.prod = 0 ∧ t.pci.b2lo = 0 ∧ t.pci.b2hi = 0 ∧ t.pci.b2log2 = 36 ∧ t.pci.up = (s.pci.up && k == .flr) ∧ t.pci.cfg = PciCfg.reset ∧
    t.nv = s.nv ∧ t.img = s.img) ∧
  (∀ s : State, s.dev ≠ .off → s.jobSt = .empty → s.rcv.parked = none → exec .d3hotEntry s =
    .next { s with pci := { s.pci with cfg := { s.pci.cfg with d3hot := true } } }) ∧
  (∀ s : State, s.dev = .up → s.jobSt ≠ .empty ∨ s.rcv.parked.isSome = true →
    ∃ t, exec .d3hotEntry s = .next t ∧ t.jobSt = .empty ∧ t.rcv.parked = none ∧ t.dev = .recovering ∧
      t.pci.cfg.d3hot = true) ∧
  (∀ (s : State) (off len : Nat), s.dev ≠ .off → s.pln.recov = false → off + len ≤ 2 ^ s.pci.b2log2 → 0 < len →
    let a := s.b2base + off
    a % pageSize + len ≤ pageSize →
    (s.hostPage (a / pageSize) = false → exec (.bar2Read off len) s = .next { s with reply := List.replicate len 0 }) ∧
    (s.hostPage (a / pageSize) = true → (∀ k ∈ s.mqt.ctl, k = none) → (∀ l ∈ s.badLines, l + 64 ≤ a ∨ a + len ≤ l) →
      exec (.bar2Read off len) s = .next { s with reply := s.hbm.read a len }) ∧
    (s.hostPage (a / pageSize) = true → (∀ k ∈ s.mqt.ctl, k = none) → ∀ l, s.badLines = [l] → a < l + 64 → l < a + len →
      ∃ t, exec (.bar2Read off len) s = .next t ∧ t.reply = s.hbm.read a len ∧ t.badLines = [l] ∧ s.SameMems t ∧
        t.evt = s.evt.add ⟨0x3011, 0xFF, false, 0, FieldRef.nil, noIdx, s.drn.beat, s.ptp.wall, BitVec.ofNat 64 l,
          BitVec.ofNat 64 (l / pageSize)⟩)) ∧
  (∀ (s : State) (off : Nat) (data : List Byte), s.dev ≠ .off → s.pln.recov = false → off + data.length ≤ 2 ^ s.pci.b2log2 → data ≠ [] →
    let a := s.b2base + off
    let p := a / pageSize
    a % pageSize + data.length ≤ pageSize →
    (s.live = true ∨ s.hostPage p = false ∨ bitAt (sparse s.pat.cur p) 9 = true ∨ s.pwr.off = true →
      exec (.bar2Write off data) s = .next (s.ev 0x8020 a p)) ∧
    (s.live = false → s.hostPage p = true → bitAt (sparse s.pat.cur p) 9 = false → s.pwr.off = false →
      (s.guarded p = false → exec (.bar2Write off data) s = .next { s with
        hbm := s.hbm.setBytes a data
        badLines := s.badLines.filter (fun l => !decide (a ≤ l ∧ l + 64 ≤ a + data.length)) }) ∧
      ∀ e, s.mqt.epoch = some e → s.guarded p = true →
        (∀ q, s.freeStage e (p / 110592) = some q → ∃ t, exec (.bar2Write off data) s = .next t ∧
          t.hbm = (s.touchCopy p).hbm.setBytes a data ∧ t.mqt = (s.touchCopy p).mqt ∧ t.evt = s.evt) ∧
        (s.freeStage e (p / 110592) = none → ∃ t, exec (.bar2Write off data) s = .next t ∧ t.hbm = s.hbm ∧
          t.mqt = { s.mqt with late := s.mqt.late ++ [⟨.hbm, a, data⟩] } ∧ t.evt = s.evt))) ∧
  ∀ (s : State) (n : Nat), s.dev ≠ .off →
    (30 ≤ n → n ≤ 39 → ∃ t, exec (.bar2Resize n) s = .next t ∧ t.pci.b2log2 = n ∧ t.b2base = s.b2base / 2 ^ n * 2 ^ n ∧ s.SameMems t) ∧
    (n < 30 ∨ 39 < n → exec (.bar2Resize n) s = .next s)

/-- The input stage (R445, R447, R522, R524, R525, R536): a valid input begins charging, an inrush timeout, a forward
short, a reverse current and a module trip open the stage, latch it off and record their cause, the stage re-arms, a
reversed input is recorded and never closes it, and a lost reference is noted.
Rests on the model's choices of log entries 92 and 96. -/
def Obligations.InputStage : Prop :=
  (∀ s : State, (s.brd.stage = .off ∨ s.brd.stage = .reversed) →
    exec .inputValid s = .next { s with dev := .off, brd := { s.brd with stage := .charging } } ∧
    exec .reversePolarity s = .next { s with brd := { s.brd with stage := .reversed, record := s.brd.record ||| 0x10#8 } }) ∧
  (∀ s : State, (s.brd.stage = .charging ∨ s.brd.stage = .closed ∨ s.brd.stage = .latched) → exec .inputValid s = .next s ∧
    exec .reversePolarity s = .next (if s.brd.stage = .latched then { s with brd := { s.brd with record := s.brd.record ||| 0x10#8 } } else s)) ∧
  (∀ s : State, exec .inrushTimeout s = .next (if s.brd.stage = .charging then
    { s with brd := { s.brd with stage := .latched, record := s.brd.record ||| 0x80#8 } } else s)) ∧
  (∀ (s : State) (rev : Bool),
    (s.brd.stage = .closed ∨ s.brd.stage = .charging → ∃ t, exec (.inputStageOpen rev) s = .next t ∧
      t.brd.stage = .latched ∧ t.brd.record = s.brd.record ||| (if rev then 0x40#8 else 0x20#8) ∧ t.dev = .off ∧ t.hbm = [] ∧
      t.fus = s.fus ∧ t.jobSt = .empty ∧ t.rcv.parked = none) ∧
    (s.brd.stage = .off ∨ s.brd.stage = .latched ∨ s.brd.stage = .reversed → exec (.inputStageOpen rev) s = .next s)) ∧
  (∀ (s : State) (c : ModTripCause) (x : Nat),
    let met : Prop := s.brd.stage = .closed ∧ (match c with | .iin => 75000 < x | .under => x < 3800 | .over => 6200 < x)
    (¬met → exec (.moduleTrip c x) s = .next s) ∧
    (met → ∃ t, exec (.moduleTrip c x) s = .next t ∧ t.brd.stage = .latched ∧ t.dev = .off ∧ t.hbm = [] ∧ t.brd.tripReading = x ∧
      t.brd.record = s.brd.record ||| (match c with | .iin => 2#8 | .under => 4#8 | .over => 8#8))) ∧
  (∀ s : State, exec .inputStageRearm s = .next (if s.brd.stage = .latched then { s with brd := { s.brd with stage := .off } } else s)) ∧
  ∀ s : State, exec .ref25Loss s = .next { s with brd := { s.brd with ref25 := false } } ∧
    (s.brd.stage ≠ .reversed → ({ s with brd := { s.brd with ref25 := false } } : State).faultPin = true)

/-- Auxiliary outputs and sensor inputs (R527, R529, R530): an output in limit turns off with 0x7041 and resumes
with 0x7042; a faulty thermistor raises 0x7043 and is replaced by its substitute reading until 0x7044; each reading
of the leak loop falls in a band, keeping the state before between bands, an open or shorted loop raises 0x7043 and
its end 0x7044, and the third wet or shorted reading in a row trips the compute part. Rests on the model's choices
of log entry 97. -/
def Obligations.BoardInputs : Prop :=
  (∀ (s : State) (o : AuxOut) (ma : Nat), s.dev ≠ .off → exec (.auxOutputLimit o ma) s =
    .next (if s.brd.limit.getD (auxIndex o) false then s
      else ({ s with brd := { s.brd with limit := s.brd.limit.set (auxIndex o) true } } : State).ev 0x7041 (auxIndex o) ma)) ∧
  (∀ (s : State) (o : AuxOut), s.dev ≠ .off → exec (.auxOutputRetry o true) s = .next s ∧
    exec (.auxOutputRetry o false) s = .next (if s.brd.limit.getD (auxIndex o) false then
      ({ s with brd := { s.brd with limit := s.brd.limit.set (auxIndex o) false } } : State).ev 0x7042 (auxIndex o) 0 else s)) ∧
  (∀ (s : State) (short : Bool), s.dev ≠ .off →
    let c := if short then 3 else 2
    exec (.sensorInputFault .tin short) s = .next (if s.brd.tinSt = c then s else
      ({ s with brd := { s.brd with tinSt := c }, pwr := { s.pwr with tin := 720 } } : State).ev 0x7043 0 (if short then 2 else 1)) ∧
    exec (.sensorInputFault .tout short) s = .next (if s.brd.toutSt = c then s else
      ({ s with brd := { s.brd with toutSt := c }, pwr := { s.pwr with tout := 0x7FFF } } : State).ev 0x7043 1 (if short then 2 else 1))) ∧
  (∀ s : State, s.dev ≠ .off →
    exec (.sensorInputRecover .tin) s = .next (if s.brd.tinSt = 0 then s else
      ({ s with brd := { s.brd with tinSt := 0 } } : State).ev 0x7044 0 0) ∧
    exec (.sensorInputRecover .tout) s = .next (if s.brd.toutSt = 0 then s else
      ({ s with brd := { s.brd with toutSt := 0 } } : State).ev 0x7044 1 0)) ∧
  ∀ (s : State) (ohms : Nat), s.dev = .up → s.pwr.off = false → s.pwr.trip = 0 →
    let old := s.brd.leak
    let bad := fun (n : Nat) => n = 2 ∨ n = 3
    ∃ t, exec (.leakLoopMeasure ohms) s = .next t ∧
      (ohms < 100 → t.brd.leak = 3) ∧ (100 ≤ ohms → ohms ≤ 5000 → t.brd.leak = 1) ∧ (8000 ≤ ohms → ohms ≤ 12000 → t.brd.leak = 0) ∧
      (50000 < ohms → t.brd.leak = 2) ∧ (5000 < ohms → ohms < 8000 ∨ 12000 < ohms → ohms ≤ 50000 → t.brd.leak = old) ∧
      t.brd.wetRun = (if t.brd.leak = 1 ∨ t.brd.leak = 3 then s.brd.wetRun + 1 else 0) ∧
      (t.brd.wetRun < 3 → t.dev = .up ∧ t.pwr.off = false ∧ s.SameMems t ∧
        (bad t.brd.leak → t.brd.leak ≠ old → ∃ r, r.code = 0x7043 ∧ t.evt = s.evt.add r) ∧
        (bad old → ¬bad t.brd.leak → ∃ r, r.code = 0x7044 ∧ t.evt = s.evt.add r) ∧
        (t.brd.leak = old ∨ (¬bad old ∧ ¬bad t.brd.leak) → t.evt = s.evt)) ∧
      (3 ≤ t.brd.wetRun → t.dev = .failed ∧ t.pwr.off = true ∧ t.pwr.trip = 0x10#6 ∧ t.brd.pump = false ∧ t.hbm = [])
end

