-- ==== Sys2Proof/Laws/Memory.lean ====
section
/-! SUPPORT. What the operations of a memory do: each keeps the canonical form, a read after a write at the same
address gives the byte written, and every other address keeps its byte. -/
namespace Sys2Proof.Machine.Mem

@[simp] theorem wf_nil : wf [] = true := rfl
@[simp] theorem get_nil (a : Nat) : get [] a = 0 := rfl
@[simp] theorem setBytes_nil (m : Mem) (a : Nat) : m.setBytes a [] = m := rfl
theorem setBytes_cons (m : Mem) (a : Nat) (b : Byte) (bs : List Byte) :
    m.setBytes a (b :: bs) = (m.set a b).setBytes (a + 1) bs := rfl

/-- A memory in canonical form: no zero byte at the front, and everything behind it lies above. -/
theorem wf_cons {a : Nat} {v : Byte} {r : Mem} :
    wf ((a, v) :: r) = true ↔ v ≠ 0 ∧ wf r = true ∧ ∀ c ∈ r, a < c.1 := by
  induction r generalizing a v with
  | nil => simp [wf]
  | cons c r ih =>
    obtain ⟨b, w⟩ := c
    have h := @ih b w
    simp only [wf, Bool.and_eq_true, bne_iff_ne, ne_eq, decide_eq_true_eq, List.mem_cons, forall_eq_or_imp]
    constructor
    · rintro ⟨⟨hv, hab⟩, hw⟩
      exact ⟨hv, hw, hab, fun c hc => Nat.lt_trans hab ((h.1 hw).2.2 c hc)⟩
    · rintro ⟨hv, hw, hab, -⟩
      exact ⟨⟨hv, hab⟩, hw⟩

/-- No cell of a canonical memory lies below an address below its first. -/
theorem get_of_all_gt {m : Mem} {a : Nat} (h : ∀ c ∈ m, a < c.1) : get m a = 0 := by
  induction m with
  | nil => rfl
  | cons c r ih =>
    obtain ⟨b, w⟩ := c
    have hb : b ≠ a := by have := h (b, w) (by simp); simp at this; omega
    simp only [get, hb, if_false]
    exact ih (fun c hc => h c (by simp [hc]))

/-- A write adds at most its own address. -/
theorem mem_set {m : Mem} {a : Nat} {v : Byte} {c : Host.Cell} (h : c ∈ m.set a v) : c ∈ m ∨ c.1 = a := by
  induction m with
  | nil => simp only [set] at h; split at h <;> simp_all
  | cons d r ih =>
    obtain ⟨b, w⟩ := d
    simp only [set] at h
    split at h
    · rcases List.mem_cons.1 h with h | h
      · exact .inl (by simp [h])
      · rcases ih h with h | h
        · exact .inl (by simp [h])
        · exact .inr h
    · split at h
      · split at h
        · exact .inl (by simp [h])
        · rcases List.mem_cons.1 h with h | h <;> simp_all
      · split at h
        · exact .inl h
        · rcases List.mem_cons.1 h with h | h <;> simp_all

/-- Storing a byte keeps the canonical form. -/
theorem wf_set {m : Mem} (h : wf m = true) (a : Nat) (v : Byte) : wf (m.set a v) = true := by
  induction m with
  | nil => simp only [set]; split <;> simp_all [wf]
  | cons c r ih =>
    obtain ⟨b, w⟩ := c
    obtain ⟨hw, hr, hall⟩ := wf_cons.1 h
    simp only [set]
    split
    · rename_i hba
      refine wf_cons.2 ⟨hw, ih hr, fun c hc => ?_⟩
      rcases mem_set hc with h1 | h1
      · exact hall c h1
      · omega
    · split
      · rename_i h1 h2
        subst h2
        split
        · exact hr
        · rename_i hv
          exact wf_cons.2 ⟨hv, hr, hall⟩
      · split
        · exact h
        · rename_i h1 h2 hv
          refine wf_cons.2 ⟨hv, h, fun c hc => ?_⟩
          rcases List.mem_cons.1 hc with h3 | h3
          · subst h3; simp; omega
          · have := hall c h3; omega

/-- Storing bytes keeps the canonical form. -/
theorem wf_setBytes {m : Mem} (h : wf m = true) (a : Nat) (bs : List Byte) : wf (m.setBytes a bs) = true := by
  induction bs generalizing m a with
  | nil => exact h
  | cons b bs ih => exact ih (wf_set h a b) (a + 1)

/-- Clearing a range keeps the canonical form. -/
theorem wf_clear {m : Mem} (h : wf m = true) (lo hi : Nat) : wf (m.clear lo hi) = true := by
  induction m with
  | nil => rfl
  | cons c r ih =>
    obtain ⟨b, w⟩ := c
    obtain ⟨hw, hr, hall⟩ := wf_cons.1 h
    have hk := ih hr
    simp only [clear, List.filter] at hk ⊢
    split
    · exact wf_cons.2 ⟨hw, hk, fun c hc => hall c (List.mem_filter.1 hc).1⟩
    · exact hk

/-- A byte reads back as it was stored. -/
theorem get_set_same {m : Mem} (h : wf m = true) (a : Nat) (v : Byte) : (m.set a v).get a = v := by
  induction m with
  | nil => simp only [set]; split <;> simp_all [get]
  | cons c r ih =>
    obtain ⟨b, w⟩ := c
    obtain ⟨-, hr, hall⟩ := wf_cons.1 h
    simp only [set]
    split
    · rename_i hba
      simp only [get, if_neg (Nat.ne_of_lt hba)]
      exact ih hr
    · split
      · rename_i h1 h2
        subst h2
        split
        · rename_i hv; rw [get_of_all_gt hall, hv]
        · simp [get]
      · rename_i h1 h2
        split
        · rename_i hv
          rw [hv]
          refine get_of_all_gt (fun c hc => ?_)
          rcases List.mem_cons.1 hc with h3 | h3
          · subst h3; simp; omega
          · have := hall c h3; omega
        · simp [get]

/-- Every other byte is as it was. -/
theorem get_set_other {m : Mem} (a : Nat) (v : Byte) {x : Nat} (hx : x ≠ a) : (m.set a v).get x = m.get x := by
  have hx' : a ≠ x := fun h => hx h.symm
  induction m with
  | nil => simp only [set]; split <;> simp_all [get]
  | cons c r ih =>
    obtain ⟨b, w⟩ := c
    simp only [set]
    split
    · simp only [get]; split
      · rfl
      · exact ih
    · split
      · rename_i h1 h2
        subst h2
        split
        · simp [get, hx']
        · simp [get, hx']
      · split
        · rfl
        · simp [get, hx']

/-- Bytes below the first stored one are as they were. -/
theorem get_setBytes_below {m : Mem} {a : Nat} (bs : List Byte) {x : Nat} (hx : x < a) : (m.setBytes a bs).get x = m.get x := by
  induction bs generalizing m a with
  | nil => rfl
  | cons b bs ih => rw [setBytes_cons, ih (by omega), get_set_other a b (by omega)]

/-- Bytes from the end of the stored ones on are as they were. -/
theorem get_setBytes_above {m : Mem} {a : Nat} (bs : List Byte) {x : Nat} (hx : a + bs.length ≤ x) :
    (m.setBytes a bs).get x = m.get x := by
  induction bs generalizing m a with
  | nil => rfl
  | cons b bs ih =>
    simp only [List.length_cons] at hx
    rw [setBytes_cons, ih (by omega), get_set_other a b (by omega)]

/-- Each stored byte reads back. -/
theorem get_setBytes_at {m : Mem} (h : wf m = true) {a : Nat} (bs : List Byte) {i : Nat} (hi : i < bs.length) :
    (m.setBytes a bs).get (a + i) = bs[i] := by
  induction bs generalizing m a i with
  | nil => simp at hi
  | cons b bs ih =>
    rw [setBytes_cons]
    cases i with
    | zero => rw [get_setBytes_below bs (by omega)]; simpa using get_set_same h a b
    | succ i =>
      have := ih (wf_set h a b) (a := a + 1) (i := i) (by simpa using hi)
      rw [show a + (i + 1) = a + 1 + i by omega, this]
      simp

/-- Cells from an address on keep the canonical form. -/
theorem wf_dropTo {m : Mem} (h : wf m = true) (a : Nat) : wf (m.dropTo a) = true := by
  induction m with
  | nil => rfl
  | cons c r ih =>
    obtain ⟨b, w⟩ := c
    simp only [dropTo]
    split
    · exact ih (wf_cons.1 h).2.1
    · exact h

@[simp] theorem length_readFrom (n a : Nat) (m : Mem) : (readFrom n a m).length = n := by
  induction n generalizing a m with
  | zero => rfl
  | succ n ih =>
    cases m with
    | nil => simp [readFrom, ih]
    | cons c r =>
      obtain ⟨b, w⟩ := c
      simp only [readFrom]
      split <;> simp [ih]

/-- A read of `n` bytes has `n` bytes. -/
@[simp] theorem length_read (m : Mem) (a n : Nat) : (m.read a n).length = n := length_readFrom n a _

/-- Cells from an address on lie at or above it. -/
theorem dropTo_ge {m : Mem} (h : wf m = true) (a : Nat) : ∀ c ∈ m.dropTo a, a ≤ c.1 := by
  induction m with
  | nil => simp [dropTo]
  | cons c r ih =>
    obtain ⟨b, w⟩ := c
    obtain ⟨-, hr, hall⟩ := wf_cons.1 h
    simp only [dropTo]
    split
    · exact ih hr
    · intro c hc
      rcases List.mem_cons.1 hc with h3 | h3
      · subst h3; simp; omega
      · have := hall c h3; omega

/-- Dropping cells below an address changes no byte from it on. -/
theorem get_dropTo {m : Mem} (h : wf m = true) {a x : Nat} (hx : a ≤ x) : (m.dropTo a).get x = m.get x := by
  induction m with
  | nil => rfl
  | cons c r ih =>
    obtain ⟨b, w⟩ := c
    simp only [dropTo]
    split
    · rw [ih (wf_cons.1 h).2.1]
      simp only [get]
      rw [if_neg (by omega)]
    · rfl

/-- The `i`-th byte of a read from `a` of a canonical memory at or above `a` is the byte at `a + i`. -/
theorem getElem_readFrom {n a : Nat} {m : Mem} (h : wf m = true) (hm : ∀ c ∈ m, a ≤ c.1) {i : Nat} (hi : i < n) :
    (readFrom n a m)[i]'(by simpa using hi) = m.get (a + i) := by
  induction n generalizing a m i with
  | zero => omega
  | succ n ih =>
    cases m with
    | nil =>
      cases i with
      | zero => simp [readFrom]
      | succ i => simp only [readFrom, List.getElem_cons_succ]; rw [ih rfl (by simp) (by omega)]; rfl
    | cons c r =>
      obtain ⟨b, w⟩ := c
      obtain ⟨-, hr, hall⟩ := wf_cons.1 h
      have hab := hm (b, w) (by simp)
      simp only at hab
      cases i with
      | zero =>
        simp only [readFrom, get, Nat.add_zero]
        split
        · simp
        · simp only [List.getElem_cons_zero]
          exact (get_of_all_gt (fun c hc => by have := hall c hc; omega)).symm
      | succ i =>
        simp only [readFrom, get]
        split
        · rename_i hb
          subst hb
          simp only [List.getElem_cons_succ]
          rw [ih hr (fun c hc => hall c hc) (by omega), if_neg (by omega), show b + 1 + i = b + (i + 1) by omega]
        · rename_i hb
          simp only [List.getElem_cons_succ]
          rw [ih h (fun c hc => ?_) (by omega), show a + 1 + i = a + (i + 1) by omega]
          · rfl
          · rcases List.mem_cons.1 hc with h3 | h3
            · subst h3; simp; omega
            · have := hall c h3; omega

/-- The `i`-th byte of a read is the byte at its address. -/
theorem getElem_read {m : Mem} (h : wf m = true) (a : Nat) {n i : Nat} (hi : i < n) :
    (m.read a n)[i]'(by simpa using hi) = m.get (a + i) := by
  rw [← get_dropTo h (Nat.le_add_right a i)]
  exact getElem_readFrom (wf_dropTo h a) (dropTo_ge h a) hi

/-- Bytes read back as they were stored. -/
theorem read_setBytes {m : Mem} (h : wf m = true) (a : Nat) (bs : List Byte) : (m.setBytes a bs).read a bs.length = bs := by
  refine List.ext_getElem (by simp) (fun i h1 h2 => ?_)
  rw [getElem_read (wf_setBytes h a bs) a (by simpa using h1), get_setBytes_at h bs h2]

end Sys2Proof.Machine.Mem
end

