-- ==== Sys2Proof/Laws/State.lean ====
section
/-! SUPPORT. What the named updates of the state leave alone: for each update one equation that says every field it can
change, and one `@[simp]` lemma for every field that it does not. -/
namespace Sys2Proof.Machine.State

/-- An interrupt changes the vectors and the messages sent. -/
theorem irq_eq (s : State) (v : Nat) :
    s.irq v = { s with msix := (s.irq v).msix, sent := (s.irq v).sent } := by
  unfold irq; split <;> rfl

@[simp] theorem irq_pending (s : State) (v : Nat) : (s.irq v).pending = s.pending := by rw [irq_eq]
@[simp] theorem irq_fus (s : State) (v : Nat) : (s.irq v).fus = s.fus := by rw [irq_eq]
@[simp] theorem irq_dev (s : State) (v : Nat) : (s.irq v).dev = s.dev := by rw [irq_eq]
@[simp] theorem irq_jobSt (s : State) (v : Nat) : (s.irq v).jobSt = s.jobSt := by rw [irq_eq]
@[simp] theorem irq_job (s : State) (v : Nat) : (s.irq v).job = s.job := by rw [irq_eq]
@[simp] theorem irq_cores (s : State) (v : Nat) : (s.irq v).cores = s.cores := by rw [irq_eq]
@[simp] theorem irq_hbm (s : State) (v : Nat) : (s.irq v).hbm = s.hbm := by rw [irq_eq]
@[simp] theorem irq_badLines (s : State) (v : Nat) : (s.irq v).badLines = s.badLines := by rw [irq_eq]
@[simp] theorem irq_host (s : State) (v : Nat) : (s.irq v).host = s.host := by rw [irq_eq]
@[simp] theorem irq_pat (s : State) (v : Nat) : (s.irq v).pat = s.pat := by rw [irq_eq]
@[simp] theorem irq_adt (s : State) (v : Nat) : (s.irq v).adt = s.adt := by rw [irq_eq]
@[simp] theorem irq_wp (s : State) (v : Nat) : (s.irq v).wp = s.wp := by rw [irq_eq]
@[simp] theorem irq_remap (s : State) (v : Nat) : (s.irq v).remap = s.remap := by rw [irq_eq]
@[simp] theorem irq_cast (s : State) (v : Nat) : (s.irq v).cast = s.cast := by rw [irq_eq]
@[simp] theorem irq_net (s : State) (v : Nat) : (s.irq v).net = s.net := by rw [irq_eq]
@[simp] theorem irq_ptp (s : State) (v : Nat) : (s.irq v).ptp = s.ptp := by rw [irq_eq]
@[simp] theorem irq_duo (s : State) (v : Nat) : (s.irq v).duo = s.duo := by rw [irq_eq]
@[simp] theorem irq_aud (s : State) (v : Nat) : (s.irq v).aud = s.aud := by rw [irq_eq]
@[simp] theorem irq_mqt (s : State) (v : Nat) : (s.irq v).mqt = s.mqt := by rw [irq_eq]
@[simp] theorem irq_rcv (s : State) (v : Nat) : (s.irq v).rcv = s.rcv := by rw [irq_eq]
@[simp] theorem irq_drn (s : State) (v : Nat) : (s.irq v).drn = s.drn := by rw [irq_eq]
@[simp] theorem irq_evt (s : State) (v : Nat) : (s.irq v).evt = s.evt := by rw [irq_eq]
@[simp] theorem irq_ring (s : State) (v : Nat) : (s.irq v).ring = s.ring := by rw [irq_eq]
@[simp] theorem irq_latch (s : State) (v : Nat) : (s.irq v).latch = s.latch := by rw [irq_eq]
@[simp] theorem irq_pci (s : State) (v : Nat) : (s.irq v).pci = s.pci := by rw [irq_eq]
@[simp] theorem irq_mgmt (s : State) (v : Nat) : (s.irq v).mgmt = s.mgmt := by rw [irq_eq]
@[simp] theorem irq_brd (s : State) (v : Nat) : (s.irq v).brd = s.brd := by rw [irq_eq]
@[simp] theorem irq_pwr (s : State) (v : Nat) : (s.irq v).pwr = s.pwr := by rw [irq_eq]
@[simp] theorem irq_clk (s : State) (v : Nat) : (s.irq v).clk = s.clk := by rw [irq_eq]
@[simp] theorem irq_nv (s : State) (v : Nat) : (s.irq v).nv = s.nv := by rw [irq_eq]
@[simp] theorem irq_pln (s : State) (v : Nat) : (s.irq v).pln = s.pln := by rw [irq_eq]
@[simp] theorem irq_img (s : State) (v : Nat) : (s.irq v).img = s.img := by rw [irq_eq]
@[simp] theorem irq_reply (s : State) (v : Nat) : (s.irq v).reply = s.reply := by rw [irq_eq]
@[simp] theorem irq_free (s : State) (v : Nat) : (s.irq v).free = s.free := by rw [irq_eq]

/-- An event changes the log, and with its interrupt the vectors. -/
theorem event_eq (s : State) (code lcore die : Nat) (f : FieldRef) (cidx arg0 arg1 : DWord) :
    s.event code lcore die f cidx arg0 arg1 = { s with evt := (s.event code lcore die f cidx arg0 arg1).evt, msix := (s.event code lcore die f cidx arg0 arg1).msix, sent := (s.event code lcore die f cidx arg0 arg1).sent } := by
  unfold event
  simp only
  split
  · rfl
  · split
    · rw [irq_eq]
    · rfl

@[simp] theorem event_pending (s : State) (code lcore die : Nat) (f : FieldRef) (cidx arg0 arg1 : DWord) : (s.event code lcore die f cidx arg0 arg1).pending = s.pending := by rw [event_eq]
@[simp] theorem event_fus (s : State) (code lcore die : Nat) (f : FieldRef) (cidx arg0 arg1 : DWord) : (s.event code lcore die f cidx arg0 arg1).fus = s.fus := by rw [event_eq]
@[simp] theorem event_dev (s : State) (code lcore die : Nat) (f : FieldRef) (cidx arg0 arg1 : DWord) : (s.event code lcore die f cidx arg0 arg1).dev = s.dev := by rw [event_eq]
@[simp] theorem event_jobSt (s : State) (code lcore die : Nat) (f : FieldRef) (cidx arg0 arg1 : DWord) : (s.event code lcore die f cidx arg0 arg1).jobSt = s.jobSt := by rw [event_eq]
@[simp] theorem event_job (s : State) (code lcore die : Nat) (f : FieldRef) (cidx arg0 arg1 : DWord) : (s.event code lcore die f cidx arg0 arg1).job = s.job := by rw [event_eq]
@[simp] theorem event_cores (s : State) (code lcore die : Nat) (f : FieldRef) (cidx arg0 arg1 : DWord) : (s.event code lcore die f cidx arg0 arg1).cores = s.cores := by rw [event_eq]
@[simp] theorem event_hbm (s : State) (code lcore die : Nat) (f : FieldRef) (cidx arg0 arg1 : DWord) : (s.event code lcore die f cidx arg0 arg1).hbm = s.hbm := by rw [event_eq]
@[simp] theorem event_badLines (s : State) (code lcore die : Nat) (f : FieldRef) (cidx arg0 arg1 : DWord) : (s.event code lcore die f cidx arg0 arg1).badLines = s.badLines := by rw [event_eq]
@[simp] theorem event_host (s : State) (code lcore die : Nat) (f : FieldRef) (cidx arg0 arg1 : DWord) : (s.event code lcore die f cidx arg0 arg1).host = s.host := by rw [event_eq]
@[simp] theorem event_pat (s : State) (code lcore die : Nat) (f : FieldRef) (cidx arg0 arg1 : DWord) : (s.event code lcore die f cidx arg0 arg1).pat = s.pat := by rw [event_eq]
@[simp] theorem event_adt (s : State) (code lcore die : Nat) (f : FieldRef) (cidx arg0 arg1 : DWord) : (s.event code lcore die f cidx arg0 arg1).adt = s.adt := by rw [event_eq]
@[simp] theorem event_wp (s : State) (code lcore die : Nat) (f : FieldRef) (cidx arg0 arg1 : DWord) : (s.event code lcore die f cidx arg0 arg1).wp = s.wp := by rw [event_eq]
@[simp] theorem event_remap (s : State) (code lcore die : Nat) (f : FieldRef) (cidx arg0 arg1 : DWord) : (s.event code lcore die f cidx arg0 arg1).remap = s.remap := by rw [event_eq]
@[simp] theorem event_cast (s : State) (code lcore die : Nat) (f : FieldRef) (cidx arg0 arg1 : DWord) : (s.event code lcore die f cidx arg0 arg1).cast = s.cast := by rw [event_eq]
@[simp] theorem event_net (s : State) (code lcore die : Nat) (f : FieldRef) (cidx arg0 arg1 : DWord) : (s.event code lcore die f cidx arg0 arg1).net = s.net := by rw [event_eq]
@[simp] theorem event_ptp (s : State) (code lcore die : Nat) (f : FieldRef) (cidx arg0 arg1 : DWord) : (s.event code lcore die f cidx arg0 arg1).ptp = s.ptp := by rw [event_eq]
@[simp] theorem event_duo (s : State) (code lcore die : Nat) (f : FieldRef) (cidx arg0 arg1 : DWord) : (s.event code lcore die f cidx arg0 arg1).duo = s.duo := by rw [event_eq]
@[simp] theorem event_aud (s : State) (code lcore die : Nat) (f : FieldRef) (cidx arg0 arg1 : DWord) : (s.event code lcore die f cidx arg0 arg1).aud = s.aud := by rw [event_eq]
@[simp] theorem event_mqt (s : State) (code lcore die : Nat) (f : FieldRef) (cidx arg0 arg1 : DWord) : (s.event code lcore die f cidx arg0 arg1).mqt = s.mqt := by rw [event_eq]
@[simp] theorem event_rcv (s : State) (code lcore die : Nat) (f : FieldRef) (cidx arg0 arg1 : DWord) : (s.event code lcore die f cidx arg0 arg1).rcv = s.rcv := by rw [event_eq]
@[simp] theorem event_drn (s : State) (code lcore die : Nat) (f : FieldRef) (cidx arg0 arg1 : DWord) : (s.event code lcore die f cidx arg0 arg1).drn = s.drn := by rw [event_eq]
@[simp] theorem event_ring (s : State) (code lcore die : Nat) (f : FieldRef) (cidx arg0 arg1 : DWord) : (s.event code lcore die f cidx arg0 arg1).ring = s.ring := by rw [event_eq]
@[simp] theorem event_latch (s : State) (code lcore die : Nat) (f : FieldRef) (cidx arg0 arg1 : DWord) : (s.event code lcore die f cidx arg0 arg1).latch = s.latch := by rw [event_eq]
@[simp] theorem event_pci (s : State) (code lcore die : Nat) (f : FieldRef) (cidx arg0 arg1 : DWord) : (s.event code lcore die f cidx arg0 arg1).pci = s.pci := by rw [event_eq]
@[simp] theorem event_mgmt (s : State) (code lcore die : Nat) (f : FieldRef) (cidx arg0 arg1 : DWord) : (s.event code lcore die f cidx arg0 arg1).mgmt = s.mgmt := by rw [event_eq]
@[simp] theorem event_brd (s : State) (code lcore die : Nat) (f : FieldRef) (cidx arg0 arg1 : DWord) : (s.event code lcore die f cidx arg0 arg1).brd = s.brd := by rw [event_eq]
@[simp] theorem event_pwr (s : State) (code lcore die : Nat) (f : FieldRef) (cidx arg0 arg1 : DWord) : (s.event code lcore die f cidx arg0 arg1).pwr = s.pwr := by rw [event_eq]
@[simp] theorem event_clk (s : State) (code lcore die : Nat) (f : FieldRef) (cidx arg0 arg1 : DWord) : (s.event code lcore die f cidx arg0 arg1).clk = s.clk := by rw [event_eq]
@[simp] theorem event_nv (s : State) (code lcore die : Nat) (f : FieldRef) (cidx arg0 arg1 : DWord) : (s.event code lcore die f cidx arg0 arg1).nv = s.nv := by rw [event_eq]
@[simp] theorem event_pln (s : State) (code lcore die : Nat) (f : FieldRef) (cidx arg0 arg1 : DWord) : (s.event code lcore die f cidx arg0 arg1).pln = s.pln := by rw [event_eq]
@[simp] theorem event_img (s : State) (code lcore die : Nat) (f : FieldRef) (cidx arg0 arg1 : DWord) : (s.event code lcore die f cidx arg0 arg1).img = s.img := by rw [event_eq]
@[simp] theorem event_reply (s : State) (code lcore die : Nat) (f : FieldRef) (cidx arg0 arg1 : DWord) : (s.event code lcore die f cidx arg0 arg1).reply = s.reply := by rw [event_eq]
@[simp] theorem event_free (s : State) (code lcore die : Nat) (f : FieldRef) (cidx arg0 arg1 : DWord) : (s.event code lcore die f cidx arg0 arg1).free = s.free := by rw [event_eq]

/-- An event of the module. -/
theorem ev_eq (s : State) (code a0 a1 : Nat) :
    s.ev code a0 a1 = { s with evt := (s.ev code a0 a1).evt, msix := (s.ev code a0 a1).msix, sent := (s.ev code a0 a1).sent } := by
  exact event_eq ..

@[simp] theorem ev_pending (s : State) (code a0 a1 : Nat) : (s.ev code a0 a1).pending = s.pending := by rw [ev_eq]
@[simp] theorem ev_fus (s : State) (code a0 a1 : Nat) : (s.ev code a0 a1).fus = s.fus := by rw [ev_eq]
@[simp] theorem ev_dev (s : State) (code a0 a1 : Nat) : (s.ev code a0 a1).dev = s.dev := by rw [ev_eq]
@[simp] theorem ev_jobSt (s : State) (code a0 a1 : Nat) : (s.ev code a0 a1).jobSt = s.jobSt := by rw [ev_eq]
@[simp] theorem ev_job (s : State) (code a0 a1 : Nat) : (s.ev code a0 a1).job = s.job := by rw [ev_eq]
@[simp] theorem ev_cores (s : State) (code a0 a1 : Nat) : (s.ev code a0 a1).cores = s.cores := by rw [ev_eq]
@[simp] theorem ev_hbm (s : State) (code a0 a1 : Nat) : (s.ev code a0 a1).hbm = s.hbm := by rw [ev_eq]
@[simp] theorem ev_badLines (s : State) (code a0 a1 : Nat) : (s.ev code a0 a1).badLines = s.badLines := by rw [ev_eq]
@[simp] theorem ev_host (s : State) (code a0 a1 : Nat) : (s.ev code a0 a1).host = s.host := by rw [ev_eq]
@[simp] theorem ev_pat (s : State) (code a0 a1 : Nat) : (s.ev code a0 a1).pat = s.pat := by rw [ev_eq]
@[simp] theorem ev_adt (s : State) (code a0 a1 : Nat) : (s.ev code a0 a1).adt = s.adt := by rw [ev_eq]
@[simp] theorem ev_wp (s : State) (code a0 a1 : Nat) : (s.ev code a0 a1).wp = s.wp := by rw [ev_eq]
@[simp] theorem ev_remap (s : State) (code a0 a1 : Nat) : (s.ev code a0 a1).remap = s.remap := by rw [ev_eq]
@[simp] theorem ev_cast (s : State) (code a0 a1 : Nat) : (s.ev code a0 a1).cast = s.cast := by rw [ev_eq]
@[simp] theorem ev_net (s : State) (code a0 a1 : Nat) : (s.ev code a0 a1).net = s.net := by rw [ev_eq]
@[simp] theorem ev_ptp (s : State) (code a0 a1 : Nat) : (s.ev code a0 a1).ptp = s.ptp := by rw [ev_eq]
@[simp] theorem ev_duo (s : State) (code a0 a1 : Nat) : (s.ev code a0 a1).duo = s.duo := by rw [ev_eq]
@[simp] theorem ev_aud (s : State) (code a0 a1 : Nat) : (s.ev code a0 a1).aud = s.aud := by rw [ev_eq]
@[simp] theorem ev_mqt (s : State) (code a0 a1 : Nat) : (s.ev code a0 a1).mqt = s.mqt := by rw [ev_eq]
@[simp] theorem ev_rcv (s : State) (code a0 a1 : Nat) : (s.ev code a0 a1).rcv = s.rcv := by rw [ev_eq]
@[simp] theorem ev_drn (s : State) (code a0 a1 : Nat) : (s.ev code a0 a1).drn = s.drn := by rw [ev_eq]
@[simp] theorem ev_ring (s : State) (code a0 a1 : Nat) : (s.ev code a0 a1).ring = s.ring := by rw [ev_eq]
@[simp] theorem ev_latch (s : State) (code a0 a1 : Nat) : (s.ev code a0 a1).latch = s.latch := by rw [ev_eq]
@[simp] theorem ev_pci (s : State) (code a0 a1 : Nat) : (s.ev code a0 a1).pci = s.pci := by rw [ev_eq]
@[simp] theorem ev_mgmt (s : State) (code a0 a1 : Nat) : (s.ev code a0 a1).mgmt = s.mgmt := by rw [ev_eq]
@[simp] theorem ev_brd (s : State) (code a0 a1 : Nat) : (s.ev code a0 a1).brd = s.brd := by rw [ev_eq]
@[simp] theorem ev_pwr (s : State) (code a0 a1 : Nat) : (s.ev code a0 a1).pwr = s.pwr := by rw [ev_eq]
@[simp] theorem ev_clk (s : State) (code a0 a1 : Nat) : (s.ev code a0 a1).clk = s.clk := by rw [ev_eq]
@[simp] theorem ev_nv (s : State) (code a0 a1 : Nat) : (s.ev code a0 a1).nv = s.nv := by rw [ev_eq]
@[simp] theorem ev_pln (s : State) (code a0 a1 : Nat) : (s.ev code a0 a1).pln = s.pln := by rw [ev_eq]
@[simp] theorem ev_img (s : State) (code a0 a1 : Nat) : (s.ev code a0 a1).img = s.img := by rw [ev_eq]
@[simp] theorem ev_reply (s : State) (code a0 a1 : Nat) : (s.ev code a0 a1).reply = s.reply := by rw [ev_eq]
@[simp] theorem ev_free (s : State) (code a0 a1 : Nat) : (s.ev code a0 a1).free = s.free := by rw [ev_eq]

/-- An event of a command. -/
theorem evCmd_eq (s : State) (code lcore : Nat) (f : FieldRef) (idx a0 a1 : Nat) :
    s.evCmd code lcore f idx a0 a1 = { s with evt := (s.evCmd code lcore f idx a0 a1).evt, msix := (s.evCmd code lcore f idx a0 a1).msix, sent := (s.evCmd code lcore f idx a0 a1).sent } := by
  exact event_eq ..

@[simp] theorem evCmd_pending (s : State) (code lcore : Nat) (f : FieldRef) (idx a0 a1 : Nat) : (s.evCmd code lcore f idx a0 a1).pending = s.pending := by rw [evCmd_eq]
@[simp] theorem evCmd_fus (s : State) (code lcore : Nat) (f : FieldRef) (idx a0 a1 : Nat) : (s.evCmd code lcore f idx a0 a1).fus = s.fus := by rw [evCmd_eq]
@[simp] theorem evCmd_dev (s : State) (code lcore : Nat) (f : FieldRef) (idx a0 a1 : Nat) : (s.evCmd code lcore f idx a0 a1).dev = s.dev := by rw [evCmd_eq]
@[simp] theorem evCmd_jobSt (s : State) (code lcore : Nat) (f : FieldRef) (idx a0 a1 : Nat) : (s.evCmd code lcore f idx a0 a1).jobSt = s.jobSt := by rw [evCmd_eq]
@[simp] theorem evCmd_job (s : State) (code lcore : Nat) (f : FieldRef) (idx a0 a1 : Nat) : (s.evCmd code lcore f idx a0 a1).job = s.job := by rw [evCmd_eq]
@[simp] theorem evCmd_cores (s : State) (code lcore : Nat) (f : FieldRef) (idx a0 a1 : Nat) : (s.evCmd code lcore f idx a0 a1).cores = s.cores := by rw [evCmd_eq]
@[simp] theorem evCmd_hbm (s : State) (code lcore : Nat) (f : FieldRef) (idx a0 a1 : Nat) : (s.evCmd code lcore f idx a0 a1).hbm = s.hbm := by rw [evCmd_eq]
@[simp] theorem evCmd_badLines (s : State) (code lcore : Nat) (f : FieldRef) (idx a0 a1 : Nat) : (s.evCmd code lcore f idx a0 a1).badLines = s.badLines := by rw [evCmd_eq]
@[simp] theorem evCmd_host (s : State) (code lcore : Nat) (f : FieldRef) (idx a0 a1 : Nat) : (s.evCmd code lcore f idx a0 a1).host = s.host := by rw [evCmd_eq]
@[simp] theorem evCmd_pat (s : State) (code lcore : Nat) (f : FieldRef) (idx a0 a1 : Nat) : (s.evCmd code lcore f idx a0 a1).pat = s.pat := by rw [evCmd_eq]
@[simp] theorem evCmd_adt (s : State) (code lcore : Nat) (f : FieldRef) (idx a0 a1 : Nat) : (s.evCmd code lcore f idx a0 a1).adt = s.adt := by rw [evCmd_eq]
@[simp] theorem evCmd_wp (s : State) (code lcore : Nat) (f : FieldRef) (idx a0 a1 : Nat) : (s.evCmd code lcore f idx a0 a1).wp = s.wp := by rw [evCmd_eq]
@[simp] theorem evCmd_remap (s : State) (code lcore : Nat) (f : FieldRef) (idx a0 a1 : Nat) : (s.evCmd code lcore f idx a0 a1).remap = s.remap := by rw [evCmd_eq]
@[simp] theorem evCmd_cast (s : State) (code lcore : Nat) (f : FieldRef) (idx a0 a1 : Nat) : (s.evCmd code lcore f idx a0 a1).cast = s.cast := by rw [evCmd_eq]
@[simp] theorem evCmd_net (s : State) (code lcore : Nat) (f : FieldRef) (idx a0 a1 : Nat) : (s.evCmd code lcore f idx a0 a1).net = s.net := by rw [evCmd_eq]
@[simp] theorem evCmd_ptp (s : State) (code lcore : Nat) (f : FieldRef) (idx a0 a1 : Nat) : (s.evCmd code lcore f idx a0 a1).ptp = s.ptp := by rw [evCmd_eq]
@[simp] theorem evCmd_duo (s : State) (code lcore : Nat) (f : FieldRef) (idx a0 a1 : Nat) : (s.evCmd code lcore f idx a0 a1).duo = s.duo := by rw [evCmd_eq]
@[simp] theorem evCmd_aud (s : State) (code lcore : Nat) (f : FieldRef) (idx a0 a1 : Nat) : (s.evCmd code lcore f idx a0 a1).aud = s.aud := by rw [evCmd_eq]
@[simp] theorem evCmd_mqt (s : State) (code lcore : Nat) (f : FieldRef) (idx a0 a1 : Nat) : (s.evCmd code lcore f idx a0 a1).mqt = s.mqt := by rw [evCmd_eq]
@[simp] theorem evCmd_rcv (s : State) (code lcore : Nat) (f : FieldRef) (idx a0 a1 : Nat) : (s.evCmd code lcore f idx a0 a1).rcv = s.rcv := by rw [evCmd_eq]
@[simp] theorem evCmd_drn (s : State) (code lcore : Nat) (f : FieldRef) (idx a0 a1 : Nat) : (s.evCmd code lcore f idx a0 a1).drn = s.drn := by rw [evCmd_eq]
@[simp] theorem evCmd_ring (s : State) (code lcore : Nat) (f : FieldRef) (idx a0 a1 : Nat) : (s.evCmd code lcore f idx a0 a1).ring = s.ring := by rw [evCmd_eq]
@[simp] theorem evCmd_latch (s : State) (code lcore : Nat) (f : FieldRef) (idx a0 a1 : Nat) : (s.evCmd code lcore f idx a0 a1).latch = s.latch := by rw [evCmd_eq]
@[simp] theorem evCmd_pci (s : State) (code lcore : Nat) (f : FieldRef) (idx a0 a1 : Nat) : (s.evCmd code lcore f idx a0 a1).pci = s.pci := by rw [evCmd_eq]
@[simp] theorem evCmd_mgmt (s : State) (code lcore : Nat) (f : FieldRef) (idx a0 a1 : Nat) : (s.evCmd code lcore f idx a0 a1).mgmt = s.mgmt := by rw [evCmd_eq]
@[simp] theorem evCmd_brd (s : State) (code lcore : Nat) (f : FieldRef) (idx a0 a1 : Nat) : (s.evCmd code lcore f idx a0 a1).brd = s.brd := by rw [evCmd_eq]
@[simp] theorem evCmd_pwr (s : State) (code lcore : Nat) (f : FieldRef) (idx a0 a1 : Nat) : (s.evCmd code lcore f idx a0 a1).pwr = s.pwr := by rw [evCmd_eq]
@[simp] theorem evCmd_clk (s : State) (code lcore : Nat) (f : FieldRef) (idx a0 a1 : Nat) : (s.evCmd code lcore f idx a0 a1).clk = s.clk := by rw [evCmd_eq]
@[simp] theorem evCmd_nv (s : State) (code lcore : Nat) (f : FieldRef) (idx a0 a1 : Nat) : (s.evCmd code lcore f idx a0 a1).nv = s.nv := by rw [evCmd_eq]
@[simp] theorem evCmd_pln (s : State) (code lcore : Nat) (f : FieldRef) (idx a0 a1 : Nat) : (s.evCmd code lcore f idx a0 a1).pln = s.pln := by rw [evCmd_eq]
@[simp] theorem evCmd_img (s : State) (code lcore : Nat) (f : FieldRef) (idx a0 a1 : Nat) : (s.evCmd code lcore f idx a0 a1).img = s.img := by rw [evCmd_eq]
@[simp] theorem evCmd_reply (s : State) (code lcore : Nat) (f : FieldRef) (idx a0 a1 : Nat) : (s.evCmd code lcore f idx a0 a1).reply = s.reply := by rw [evCmd_eq]
@[simp] theorem evCmd_free (s : State) (code lcore : Nat) (f : FieldRef) (idx a0 a1 : Nat) : (s.evCmd code lcore f idx a0 a1).free = s.free := by rw [evCmd_eq]

/-- A rejected request. -/
theorem reject_eq (s : State) (req : Nat) :
    s.reject req = { s with evt := (s.reject req).evt, msix := (s.reject req).msix, sent := (s.reject req).sent } := by
  exact ev_eq ..

@[simp] theorem reject_pending (s : State) (req : Nat) : (s.reject req).pending = s.pending := by rw [reject_eq]
@[simp] theorem reject_fus (s : State) (req : Nat) : (s.reject req).fus = s.fus := by rw [reject_eq]
@[simp] theorem reject_dev (s : State) (req : Nat) : (s.reject req).dev = s.dev := by rw [reject_eq]
@[simp] theorem reject_jobSt (s : State) (req : Nat) : (s.reject req).jobSt = s.jobSt := by rw [reject_eq]
@[simp] theorem reject_job (s : State) (req : Nat) : (s.reject req).job = s.job := by rw [reject_eq]
@[simp] theorem reject_cores (s : State) (req : Nat) : (s.reject req).cores = s.cores := by rw [reject_eq]
@[simp] theorem reject_hbm (s : State) (req : Nat) : (s.reject req).hbm = s.hbm := by rw [reject_eq]
@[simp] theorem reject_badLines (s : State) (req : Nat) : (s.reject req).badLines = s.badLines := by rw [reject_eq]
@[simp] theorem reject_host (s : State) (req : Nat) : (s.reject req).host = s.host := by rw [reject_eq]
@[simp] theorem reject_pat (s : State) (req : Nat) : (s.reject req).pat = s.pat := by rw [reject_eq]
@[simp] theorem reject_adt (s : State) (req : Nat) : (s.reject req).adt = s.adt := by rw [reject_eq]
@[simp] theorem reject_wp (s : State) (req : Nat) : (s.reject req).wp = s.wp := by rw [reject_eq]
@[simp] theorem reject_remap (s : State) (req : Nat) : (s.reject req).remap = s.remap := by rw [reject_eq]
@[simp] theorem reject_cast (s : State) (req : Nat) : (s.reject req).cast = s.cast := by rw [reject_eq]
@[simp] theorem reject_net (s : State) (req : Nat) : (s.reject req).net = s.net := by rw [reject_eq]
@[simp] theorem reject_ptp (s : State) (req : Nat) : (s.reject req).ptp = s.ptp := by rw [reject_eq]
@[simp] theorem reject_duo (s : State) (req : Nat) : (s.reject req).duo = s.duo := by rw [reject_eq]
@[simp] theorem reject_aud (s : State) (req : Nat) : (s.reject req).aud = s.aud := by rw [reject_eq]
@[simp] theorem reject_mqt (s : State) (req : Nat) : (s.reject req).mqt = s.mqt := by rw [reject_eq]
@[simp] theorem reject_rcv (s : State) (req : Nat) : (s.reject req).rcv = s.rcv := by rw [reject_eq]
@[simp] theorem reject_drn (s : State) (req : Nat) : (s.reject req).drn = s.drn := by rw [reject_eq]
@[simp] theorem reject_ring (s : State) (req : Nat) : (s.reject req).ring = s.ring := by rw [reject_eq]
@[simp] theorem reject_latch (s : State) (req : Nat) : (s.reject req).latch = s.latch := by rw [reject_eq]
@[simp] theorem reject_pci (s : State) (req : Nat) : (s.reject req).pci = s.pci := by rw [reject_eq]
@[simp] theorem reject_mgmt (s : State) (req : Nat) : (s.reject req).mgmt = s.mgmt := by rw [reject_eq]
@[simp] theorem reject_brd (s : State) (req : Nat) : (s.reject req).brd = s.brd := by rw [reject_eq]
@[simp] theorem reject_pwr (s : State) (req : Nat) : (s.reject req).pwr = s.pwr := by rw [reject_eq]
@[simp] theorem reject_clk (s : State) (req : Nat) : (s.reject req).clk = s.clk := by rw [reject_eq]
@[simp] theorem reject_nv (s : State) (req : Nat) : (s.reject req).nv = s.nv := by rw [reject_eq]
@[simp] theorem reject_pln (s : State) (req : Nat) : (s.reject req).pln = s.pln := by rw [reject_eq]
@[simp] theorem reject_img (s : State) (req : Nat) : (s.reject req).img = s.img := by rw [reject_eq]
@[simp] theorem reject_reply (s : State) (req : Nat) : (s.reject req).reply = s.reply := by rw [reject_eq]
@[simp] theorem reject_free (s : State) (req : Nat) : (s.reject req).free = s.free := by rw [reject_eq]

/-- An ignored access. -/
theorem ignored_eq (s : State) (reason off : Nat) :
    s.ignored reason off = { s with evt := (s.ignored reason off).evt, msix := (s.ignored reason off).msix, sent := (s.ignored reason off).sent } := by
  exact ev_eq ..

@[simp] theorem ignored_pending (s : State) (reason off : Nat) : (s.ignored reason off).pending = s.pending := by rw [ignored_eq]
@[simp] theorem ignored_fus (s : State) (reason off : Nat) : (s.ignored reason off).fus = s.fus := by rw [ignored_eq]
@[simp] theorem ignored_dev (s : State) (reason off : Nat) : (s.ignored reason off).dev = s.dev := by rw [ignored_eq]
@[simp] theorem ignored_jobSt (s : State) (reason off : Nat) : (s.ignored reason off).jobSt = s.jobSt := by rw [ignored_eq]
@[simp] theorem ignored_job (s : State) (reason off : Nat) : (s.ignored reason off).job = s.job := by rw [ignored_eq]
@[simp] theorem ignored_cores (s : State) (reason off : Nat) : (s.ignored reason off).cores = s.cores := by rw [ignored_eq]
@[simp] theorem ignored_hbm (s : State) (reason off : Nat) : (s.ignored reason off).hbm = s.hbm := by rw [ignored_eq]
@[simp] theorem ignored_badLines (s : State) (reason off : Nat) : (s.ignored reason off).badLines = s.badLines := by rw [ignored_eq]
@[simp] theorem ignored_host (s : State) (reason off : Nat) : (s.ignored reason off).host = s.host := by rw [ignored_eq]
@[simp] theorem ignored_pat (s : State) (reason off : Nat) : (s.ignored reason off).pat = s.pat := by rw [ignored_eq]
@[simp] theorem ignored_adt (s : State) (reason off : Nat) : (s.ignored reason off).adt = s.adt := by rw [ignored_eq]
@[simp] theorem ignored_wp (s : State) (reason off : Nat) : (s.ignored reason off).wp = s.wp := by rw [ignored_eq]
@[simp] theorem ignored_remap (s : State) (reason off : Nat) : (s.ignored reason off).remap = s.remap := by rw [ignored_eq]
@[simp] theorem ignored_cast (s : State) (reason off : Nat) : (s.ignored reason off).cast = s.cast := by rw [ignored_eq]
@[simp] theorem ignored_net (s : State) (reason off : Nat) : (s.ignored reason off).net = s.net := by rw [ignored_eq]
@[simp] theorem ignored_ptp (s : State) (reason off : Nat) : (s.ignored reason off).ptp = s.ptp := by rw [ignored_eq]
@[simp] theorem ignored_duo (s : State) (reason off : Nat) : (s.ignored reason off).duo = s.duo := by rw [ignored_eq]
@[simp] theorem ignored_aud (s : State) (reason off : Nat) : (s.ignored reason off).aud = s.aud := by rw [ignored_eq]
@[simp] theorem ignored_mqt (s : State) (reason off : Nat) : (s.ignored reason off).mqt = s.mqt := by rw [ignored_eq]
@[simp] theorem ignored_rcv (s : State) (reason off : Nat) : (s.ignored reason off).rcv = s.rcv := by rw [ignored_eq]
@[simp] theorem ignored_drn (s : State) (reason off : Nat) : (s.ignored reason off).drn = s.drn := by rw [ignored_eq]
@[simp] theorem ignored_ring (s : State) (reason off : Nat) : (s.ignored reason off).ring = s.ring := by rw [ignored_eq]
@[simp] theorem ignored_latch (s : State) (reason off : Nat) : (s.ignored reason off).latch = s.latch := by rw [ignored_eq]
@[simp] theorem ignored_pci (s : State) (reason off : Nat) : (s.ignored reason off).pci = s.pci := by rw [ignored_eq]
@[simp] theorem ignored_mgmt (s : State) (reason off : Nat) : (s.ignored reason off).mgmt = s.mgmt := by rw [ignored_eq]
@[simp] theorem ignored_brd (s : State) (reason off : Nat) : (s.ignored reason off).brd = s.brd := by rw [ignored_eq]
@[simp] theorem ignored_pwr (s : State) (reason off : Nat) : (s.ignored reason off).pwr = s.pwr := by rw [ignored_eq]
@[simp] theorem ignored_clk (s : State) (reason off : Nat) : (s.ignored reason off).clk = s.clk := by rw [ignored_eq]
@[simp] theorem ignored_nv (s : State) (reason off : Nat) : (s.ignored reason off).nv = s.nv := by rw [ignored_eq]
@[simp] theorem ignored_pln (s : State) (reason off : Nat) : (s.ignored reason off).pln = s.pln := by rw [ignored_eq]
@[simp] theorem ignored_img (s : State) (reason off : Nat) : (s.ignored reason off).img = s.img := by rw [ignored_eq]
@[simp] theorem ignored_reply (s : State) (reason off : Nat) : (s.ignored reason off).reply = s.reply := by rw [ignored_eq]
@[simp] theorem ignored_free (s : State) (reason off : Nat) : (s.ignored reason off).free = s.free := by rw [ignored_eq]

/-- A change of the job state with its interrupts. -/
theorem setJob_eq (s : State) (j : JobSt) :
    s.setJob j = { s with jobSt := (s.setJob j).jobSt, msix := (s.setJob j).msix, sent := (s.setJob j).sent } := by
  unfold setJob
  split
  · rfl
  · simp only
    split
    · rw [irq_eq]
    · rw [irq_eq, irq_eq { s with jobSt := j } 2]

@[simp] theorem setJob_pending (s : State) (j : JobSt) : (s.setJob j).pending = s.pending := by rw [setJob_eq]
@[simp] theorem setJob_fus (s : State) (j : JobSt) : (s.setJob j).fus = s.fus := by rw [setJob_eq]
@[simp] theorem setJob_dev (s : State) (j : JobSt) : (s.setJob j).dev = s.dev := by rw [setJob_eq]
@[simp] theorem setJob_job (s : State) (j : JobSt) : (s.setJob j).job = s.job := by rw [setJob_eq]
@[simp] theorem setJob_cores (s : State) (j : JobSt) : (s.setJob j).cores = s.cores := by rw [setJob_eq]
@[simp] theorem setJob_hbm (s : State) (j : JobSt) : (s.setJob j).hbm = s.hbm := by rw [setJob_eq]
@[simp] theorem setJob_badLines (s : State) (j : JobSt) : (s.setJob j).badLines = s.badLines := by rw [setJob_eq]
@[simp] theorem setJob_host (s : State) (j : JobSt) : (s.setJob j).host = s.host := by rw [setJob_eq]
@[simp] theorem setJob_pat (s : State) (j : JobSt) : (s.setJob j).pat = s.pat := by rw [setJob_eq]
@[simp] theorem setJob_adt (s : State) (j : JobSt) : (s.setJob j).adt = s.adt := by rw [setJob_eq]
@[simp] theorem setJob_wp (s : State) (j : JobSt) : (s.setJob j).wp = s.wp := by rw [setJob_eq]
@[simp] theorem setJob_remap (s : State) (j : JobSt) : (s.setJob j).remap = s.remap := by rw [setJob_eq]
@[simp] theorem setJob_cast (s : State) (j : JobSt) : (s.setJob j).cast = s.cast := by rw [setJob_eq]
@[simp] theorem setJob_net (s : State) (j : JobSt) : (s.setJob j).net = s.net := by rw [setJob_eq]
@[simp] theorem setJob_ptp (s : State) (j : JobSt) : (s.setJob j).ptp = s.ptp := by rw [setJob_eq]
@[simp] theorem setJob_duo (s : State) (j : JobSt) : (s.setJob j).duo = s.duo := by rw [setJob_eq]
@[simp] theorem setJob_aud (s : State) (j : JobSt) : (s.setJob j).aud = s.aud := by rw [setJob_eq]
@[simp] theorem setJob_mqt (s : State) (j : JobSt) : (s.setJob j).mqt = s.mqt := by rw [setJob_eq]
@[simp] theorem setJob_rcv (s : State) (j : JobSt) : (s.setJob j).rcv = s.rcv := by rw [setJob_eq]
@[simp] theorem setJob_drn (s : State) (j : JobSt) : (s.setJob j).drn = s.drn := by rw [setJob_eq]
@[simp] theorem setJob_evt (s : State) (j : JobSt) : (s.setJob j).evt = s.evt := by rw [setJob_eq]
@[simp] theorem setJob_ring (s : State) (j : JobSt) : (s.setJob j).ring = s.ring := by rw [setJob_eq]
@[simp] theorem setJob_latch (s : State) (j : JobSt) : (s.setJob j).latch = s.latch := by rw [setJob_eq]
@[simp] theorem setJob_pci (s : State) (j : JobSt) : (s.setJob j).pci = s.pci := by rw [setJob_eq]
@[simp] theorem setJob_mgmt (s : State) (j : JobSt) : (s.setJob j).mgmt = s.mgmt := by rw [setJob_eq]
@[simp] theorem setJob_brd (s : State) (j : JobSt) : (s.setJob j).brd = s.brd := by rw [setJob_eq]
@[simp] theorem setJob_pwr (s : State) (j : JobSt) : (s.setJob j).pwr = s.pwr := by rw [setJob_eq]
@[simp] theorem setJob_clk (s : State) (j : JobSt) : (s.setJob j).clk = s.clk := by rw [setJob_eq]
@[simp] theorem setJob_nv (s : State) (j : JobSt) : (s.setJob j).nv = s.nv := by rw [setJob_eq]
@[simp] theorem setJob_pln (s : State) (j : JobSt) : (s.setJob j).pln = s.pln := by rw [setJob_eq]
@[simp] theorem setJob_img (s : State) (j : JobSt) : (s.setJob j).img = s.img := by rw [setJob_eq]
@[simp] theorem setJob_reply (s : State) (j : JobSt) : (s.setJob j).reply = s.reply := by rw [setJob_eq]
@[simp] theorem setJob_free (s : State) (j : JobSt) : (s.setJob j).free = s.free := by rw [setJob_eq]

/-- A change of the device condition with its interrupt. -/
theorem setDev_eq (s : State) (d : DevCond) :
    s.setDev d = { s with dev := (s.setDev d).dev, msix := (s.setDev d).msix, sent := (s.setDev d).sent } := by
  unfold setDev
  simp only
  split
  · rfl
  · rw [irq_eq]

@[simp] theorem setDev_pending (s : State) (d : DevCond) : (s.setDev d).pending = s.pending := by rw [setDev_eq]
@[simp] theorem setDev_fus (s : State) (d : DevCond) : (s.setDev d).fus = s.fus := by rw [setDev_eq]
@[simp] theorem setDev_jobSt (s : State) (d : DevCond) : (s.setDev d).jobSt = s.jobSt := by rw [setDev_eq]
@[simp] theorem setDev_job (s : State) (d : DevCond) : (s.setDev d).job = s.job := by rw [setDev_eq]
@[simp] theorem setDev_cores (s : State) (d : DevCond) : (s.setDev d).cores = s.cores := by rw [setDev_eq]
@[simp] theorem setDev_hbm (s : State) (d : DevCond) : (s.setDev d).hbm = s.hbm := by rw [setDev_eq]
@[simp] theorem setDev_badLines (s : State) (d : DevCond) : (s.setDev d).badLines = s.badLines := by rw [setDev_eq]
@[simp] theorem setDev_host (s : State) (d : DevCond) : (s.setDev d).host = s.host := by rw [setDev_eq]
@[simp] theorem setDev_pat (s : State) (d : DevCond) : (s.setDev d).pat = s.pat := by rw [setDev_eq]
@[simp] theorem setDev_adt (s : State) (d : DevCond) : (s.setDev d).adt = s.adt := by rw [setDev_eq]
@[simp] theorem setDev_wp (s : State) (d : DevCond) : (s.setDev d).wp = s.wp := by rw [setDev_eq]
@[simp] theorem setDev_remap (s : State) (d : DevCond) : (s.setDev d).remap = s.remap := by rw [setDev_eq]
@[simp] theorem setDev_cast (s : State) (d : DevCond) : (s.setDev d).cast = s.cast := by rw [setDev_eq]
@[simp] theorem setDev_net (s : State) (d : DevCond) : (s.setDev d).net = s.net := by rw [setDev_eq]
@[simp] theorem setDev_ptp (s : State) (d : DevCond) : (s.setDev d).ptp = s.ptp := by rw [setDev_eq]
@[simp] theorem setDev_duo (s : State) (d : DevCond) : (s.setDev d).duo = s.duo := by rw [setDev_eq]
@[simp] theorem setDev_aud (s : State) (d : DevCond) : (s.setDev d).aud = s.aud := by rw [setDev_eq]
@[simp] theorem setDev_mqt (s : State) (d : DevCond) : (s.setDev d).mqt = s.mqt := by rw [setDev_eq]
@[simp] theorem setDev_rcv (s : State) (d : DevCond) : (s.setDev d).rcv = s.rcv := by rw [setDev_eq]
@[simp] theorem setDev_drn (s : State) (d : DevCond) : (s.setDev d).drn = s.drn := by rw [setDev_eq]
@[simp] theorem setDev_evt (s : State) (d : DevCond) : (s.setDev d).evt = s.evt := by rw [setDev_eq]
@[simp] theorem setDev_ring (s : State) (d : DevCond) : (s.setDev d).ring = s.ring := by rw [setDev_eq]
@[simp] theorem setDev_latch (s : State) (d : DevCond) : (s.setDev d).latch = s.latch := by rw [setDev_eq]
@[simp] theorem setDev_pci (s : State) (d : DevCond) : (s.setDev d).pci = s.pci := by rw [setDev_eq]
@[simp] theorem setDev_mgmt (s : State) (d : DevCond) : (s.setDev d).mgmt = s.mgmt := by rw [setDev_eq]
@[simp] theorem setDev_brd (s : State) (d : DevCond) : (s.setDev d).brd = s.brd := by rw [setDev_eq]
@[simp] theorem setDev_pwr (s : State) (d : DevCond) : (s.setDev d).pwr = s.pwr := by rw [setDev_eq]
@[simp] theorem setDev_clk (s : State) (d : DevCond) : (s.setDev d).clk = s.clk := by rw [setDev_eq]
@[simp] theorem setDev_nv (s : State) (d : DevCond) : (s.setDev d).nv = s.nv := by rw [setDev_eq]
@[simp] theorem setDev_pln (s : State) (d : DevCond) : (s.setDev d).pln = s.pln := by rw [setDev_eq]
@[simp] theorem setDev_img (s : State) (d : DevCond) : (s.setDev d).img = s.img := by rw [setDev_eq]
@[simp] theorem setDev_reply (s : State) (d : DevCond) : (s.setDev d).reply = s.reply := by rw [setDev_eq]
@[simp] theorem setDev_free (s : State) (d : DevCond) : (s.setDev d).free = s.free := by rw [setDev_eq]

/-- A change of one core. -/
theorem setCore_eq (s : State) (c : Nat) (f : Core → Core) :
    s.setCore c f = { s with cores := (s.setCore c f).cores } := by
  rfl

@[simp] theorem setCore_pending (s : State) (c : Nat) (f : Core → Core) : (s.setCore c f).pending = s.pending := rfl
@[simp] theorem setCore_fus (s : State) (c : Nat) (f : Core → Core) : (s.setCore c f).fus = s.fus := rfl
@[simp] theorem setCore_dev (s : State) (c : Nat) (f : Core → Core) : (s.setCore c f).dev = s.dev := rfl
@[simp] theorem setCore_jobSt (s : State) (c : Nat) (f : Core → Core) : (s.setCore c f).jobSt = s.jobSt := rfl
@[simp] theorem setCore_job (s : State) (c : Nat) (f : Core → Core) : (s.setCore c f).job = s.job := rfl
@[simp] theorem setCore_hbm (s : State) (c : Nat) (f : Core → Core) : (s.setCore c f).hbm = s.hbm := rfl
@[simp] theorem setCore_host (s : State) (c : Nat) (f : Core → Core) : (s.setCore c f).host = s.host := rfl
@[simp] theorem setCore_pat (s : State) (c : Nat) (f : Core → Core) : (s.setCore c f).pat = s.pat := rfl
@[simp] theorem setCore_adt (s : State) (c : Nat) (f : Core → Core) : (s.setCore c f).adt = s.adt := rfl
@[simp] theorem setCore_wp (s : State) (c : Nat) (f : Core → Core) : (s.setCore c f).wp = s.wp := rfl
@[simp] theorem setCore_remap (s : State) (c : Nat) (f : Core → Core) : (s.setCore c f).remap = s.remap := rfl
@[simp] theorem setCore_cast (s : State) (c : Nat) (f : Core → Core) : (s.setCore c f).cast = s.cast := rfl
@[simp] theorem setCore_net (s : State) (c : Nat) (f : Core → Core) : (s.setCore c f).net = s.net := rfl
@[simp] theorem setCore_ptp (s : State) (c : Nat) (f : Core → Core) : (s.setCore c f).ptp = s.ptp := rfl
@[simp] theorem setCore_duo (s : State) (c : Nat) (f : Core → Core) : (s.setCore c f).duo = s.duo := rfl
@[simp] theorem setCore_aud (s : State) (c : Nat) (f : Core → Core) : (s.setCore c f).aud = s.aud := rfl
@[simp] theorem setCore_mqt (s : State) (c : Nat) (f : Core → Core) : (s.setCore c f).mqt = s.mqt := rfl
@[simp] theorem setCore_rcv (s : State) (c : Nat) (f : Core → Core) : (s.setCore c f).rcv = s.rcv := rfl
@[simp] theorem setCore_drn (s : State) (c : Nat) (f : Core → Core) : (s.setCore c f).drn = s.drn := rfl
@[simp] theorem setCore_evt (s : State) (c : Nat) (f : Core → Core) : (s.setCore c f).evt = s.evt := rfl
@[simp] theorem setCore_ring (s : State) (c : Nat) (f : Core → Core) : (s.setCore c f).ring = s.ring := rfl
@[simp] theorem setCore_msix (s : State) (c : Nat) (f : Core → Core) : (s.setCore c f).msix = s.msix := rfl
@[simp] theorem setCore_latch (s : State) (c : Nat) (f : Core → Core) : (s.setCore c f).latch = s.latch := rfl
@[simp] theorem setCore_pci (s : State) (c : Nat) (f : Core → Core) : (s.setCore c f).pci = s.pci := rfl
@[simp] theorem setCore_mgmt (s : State) (c : Nat) (f : Core → Core) : (s.setCore c f).mgmt = s.mgmt := rfl
@[simp] theorem setCore_brd (s : State) (c : Nat) (f : Core → Core) : (s.setCore c f).brd = s.brd := rfl
@[simp] theorem setCore_pwr (s : State) (c : Nat) (f : Core → Core) : (s.setCore c f).pwr = s.pwr := rfl
@[simp] theorem setCore_clk (s : State) (c : Nat) (f : Core → Core) : (s.setCore c f).clk = s.clk := rfl
@[simp] theorem setCore_nv (s : State) (c : Nat) (f : Core → Core) : (s.setCore c f).nv = s.nv := rfl
@[simp] theorem setCore_pln (s : State) (c : Nat) (f : Core → Core) : (s.setCore c f).pln = s.pln := rfl
@[simp] theorem setCore_img (s : State) (c : Nat) (f : Core → Core) : (s.setCore c f).img = s.img := rfl
@[simp] theorem setCore_sent (s : State) (c : Nat) (f : Core → Core) : (s.setCore c f).sent = s.sent := rfl
@[simp] theorem setCore_reply (s : State) (c : Nat) (f : Core → Core) : (s.setCore c f).reply = s.reply := rfl
@[simp] theorem setCore_free (s : State) (c : Nat) (f : Core → Core) : (s.setCore c f).free = s.free := rfl

/-- A change of one command in flight. -/
theorem setFlight_eq (s : State) (f : Flight) :
    s.setFlight f = { s with job := (s.setFlight f).job } := by
  rfl

@[simp] theorem setFlight_pending (s : State) (f : Flight) : (s.setFlight f).pending = s.pending := rfl
@[simp] theorem setFlight_fus (s : State) (f : Flight) : (s.setFlight f).fus = s.fus := rfl
@[simp] theorem setFlight_dev (s : State) (f : Flight) : (s.setFlight f).dev = s.dev := rfl
@[simp] theorem setFlight_jobSt (s : State) (f : Flight) : (s.setFlight f).jobSt = s.jobSt := rfl
@[simp] theorem setFlight_cores (s : State) (f : Flight) : (s.setFlight f).cores = s.cores := rfl
@[simp] theorem setFlight_hbm (s : State) (f : Flight) : (s.setFlight f).hbm = s.hbm := rfl
@[simp] theorem setFlight_host (s : State) (f : Flight) : (s.setFlight f).host = s.host := rfl
@[simp] theorem setFlight_pat (s : State) (f : Flight) : (s.setFlight f).pat = s.pat := rfl
@[simp] theorem setFlight_adt (s : State) (f : Flight) : (s.setFlight f).adt = s.adt := rfl
@[simp] theorem setFlight_wp (s : State) (f : Flight) : (s.setFlight f).wp = s.wp := rfl
@[simp] theorem setFlight_remap (s : State) (f : Flight) : (s.setFlight f).remap = s.remap := rfl
@[simp] theorem setFlight_cast (s : State) (f : Flight) : (s.setFlight f).cast = s.cast := rfl
@[simp] theorem setFlight_net (s : State) (f : Flight) : (s.setFlight f).net = s.net := rfl
@[simp] theorem setFlight_ptp (s : State) (f : Flight) : (s.setFlight f).ptp = s.ptp := rfl
@[simp] theorem setFlight_duo (s : State) (f : Flight) : (s.setFlight f).duo = s.duo := rfl
@[simp] theorem setFlight_aud (s : State) (f : Flight) : (s.setFlight f).aud = s.aud := rfl
@[simp] theorem setFlight_mqt (s : State) (f : Flight) : (s.setFlight f).mqt = s.mqt := rfl
@[simp] theorem setFlight_rcv (s : State) (f : Flight) : (s.setFlight f).rcv = s.rcv := rfl
@[simp] theorem setFlight_drn (s : State) (f : Flight) : (s.setFlight f).drn = s.drn := rfl
@[simp] theorem setFlight_evt (s : State) (f : Flight) : (s.setFlight f).evt = s.evt := rfl
@[simp] theorem setFlight_ring (s : State) (f : Flight) : (s.setFlight f).ring = s.ring := rfl
@[simp] theorem setFlight_msix (s : State) (f : Flight) : (s.setFlight f).msix = s.msix := rfl
@[simp] theorem setFlight_latch (s : State) (f : Flight) : (s.setFlight f).latch = s.latch := rfl
@[simp] theorem setFlight_pci (s : State) (f : Flight) : (s.setFlight f).pci = s.pci := rfl
@[simp] theorem setFlight_mgmt (s : State) (f : Flight) : (s.setFlight f).mgmt = s.mgmt := rfl
@[simp] theorem setFlight_brd (s : State) (f : Flight) : (s.setFlight f).brd = s.brd := rfl
@[simp] theorem setFlight_pwr (s : State) (f : Flight) : (s.setFlight f).pwr = s.pwr := rfl
@[simp] theorem setFlight_clk (s : State) (f : Flight) : (s.setFlight f).clk = s.clk := rfl
@[simp] theorem setFlight_nv (s : State) (f : Flight) : (s.setFlight f).nv = s.nv := rfl
@[simp] theorem setFlight_pln (s : State) (f : Flight) : (s.setFlight f).pln = s.pln := rfl
@[simp] theorem setFlight_img (s : State) (f : Flight) : (s.setFlight f).img = s.img := rfl
@[simp] theorem setFlight_sent (s : State) (f : Flight) : (s.setFlight f).sent = s.sent := rfl
@[simp] theorem setFlight_reply (s : State) (f : Flight) : (s.setFlight f).reply = s.reply := rfl
@[simp] theorem setFlight_free (s : State) (f : Flight) : (s.setFlight f).free = s.free := rfl

/-- A change of the stream's position. -/
theorem setSeg_eq (s : State) (x : SegSt) :
    s.setSeg x = { s with job := (s.setSeg x).job } := by
  rfl

@[simp] theorem setSeg_pending (s : State) (x : SegSt) : (s.setSeg x).pending = s.pending := rfl
@[simp] theorem setSeg_fus (s : State) (x : SegSt) : (s.setSeg x).fus = s.fus := rfl
@[simp] theorem setSeg_dev (s : State) (x : SegSt) : (s.setSeg x).dev = s.dev := rfl
@[simp] theorem setSeg_jobSt (s : State) (x : SegSt) : (s.setSeg x).jobSt = s.jobSt := rfl
@[simp] theorem setSeg_cores (s : State) (x : SegSt) : (s.setSeg x).cores = s.cores := rfl
@[simp] theorem setSeg_hbm (s : State) (x : SegSt) : (s.setSeg x).hbm = s.hbm := rfl
@[simp] theorem setSeg_host (s : State) (x : SegSt) : (s.setSeg x).host = s.host := rfl
@[simp] theorem setSeg_pat (s : State) (x : SegSt) : (s.setSeg x).pat = s.pat := rfl
@[simp] theorem setSeg_adt (s : State) (x : SegSt) : (s.setSeg x).adt = s.adt := rfl
@[simp] theorem setSeg_wp (s : State) (x : SegSt) : (s.setSeg x).wp = s.wp := rfl
@[simp] theorem setSeg_remap (s : State) (x : SegSt) : (s.setSeg x).remap = s.remap := rfl
@[simp] theorem setSeg_cast (s : State) (x : SegSt) : (s.setSeg x).cast = s.cast := rfl
@[simp] theorem setSeg_net (s : State) (x : SegSt) : (s.setSeg x).net = s.net := rfl
@[simp] theorem setSeg_ptp (s : State) (x : SegSt) : (s.setSeg x).ptp = s.ptp := rfl
@[simp] theorem setSeg_duo (s : State) (x : SegSt) : (s.setSeg x).duo = s.duo := rfl
@[simp] theorem setSeg_aud (s : State) (x : SegSt) : (s.setSeg x).aud = s.aud := rfl
@[simp] theorem setSeg_mqt (s : State) (x : SegSt) : (s.setSeg x).mqt = s.mqt := rfl
@[simp] theorem setSeg_rcv (s : State) (x : SegSt) : (s.setSeg x).rcv = s.rcv := rfl
@[simp] theorem setSeg_drn (s : State) (x : SegSt) : (s.setSeg x).drn = s.drn := rfl
@[simp] theorem setSeg_evt (s : State) (x : SegSt) : (s.setSeg x).evt = s.evt := rfl
@[simp] theorem setSeg_ring (s : State) (x : SegSt) : (s.setSeg x).ring = s.ring := rfl
@[simp] theorem setSeg_msix (s : State) (x : SegSt) : (s.setSeg x).msix = s.msix := rfl
@[simp] theorem setSeg_latch (s : State) (x : SegSt) : (s.setSeg x).latch = s.latch := rfl
@[simp] theorem setSeg_pci (s : State) (x : SegSt) : (s.setSeg x).pci = s.pci := rfl
@[simp] theorem setSeg_mgmt (s : State) (x : SegSt) : (s.setSeg x).mgmt = s.mgmt := rfl
@[simp] theorem setSeg_brd (s : State) (x : SegSt) : (s.setSeg x).brd = s.brd := rfl
@[simp] theorem setSeg_pwr (s : State) (x : SegSt) : (s.setSeg x).pwr = s.pwr := rfl
@[simp] theorem setSeg_clk (s : State) (x : SegSt) : (s.setSeg x).clk = s.clk := rfl
@[simp] theorem setSeg_nv (s : State) (x : SegSt) : (s.setSeg x).nv = s.nv := rfl
@[simp] theorem setSeg_pln (s : State) (x : SegSt) : (s.setSeg x).pln = s.pln := rfl
@[simp] theorem setSeg_img (s : State) (x : SegSt) : (s.setSeg x).img = s.img := rfl
@[simp] theorem setSeg_sent (s : State) (x : SegSt) : (s.setSeg x).sent = s.sent := rfl
@[simp] theorem setSeg_reply (s : State) (x : SegSt) : (s.setSeg x).reply = s.reply := rfl
@[simp] theorem setSeg_free (s : State) (x : SegSt) : (s.setSeg x).free = s.free := rfl

/-- A fault location noted. -/
theorem noteFault_eq (s : State) (idx code : Nat) :
    s.noteFault idx code = { s with ring := (s.noteFault idx code).ring } := by
  unfold noteFault; simp only; split <;> rfl

@[simp] theorem noteFault_pending (s : State) (idx code : Nat) : (s.noteFault idx code).pending = s.pending := by rw [noteFault_eq]
@[simp] theorem noteFault_fus (s : State) (idx code : Nat) : (s.noteFault idx code).fus = s.fus := by rw [noteFault_eq]
@[simp] theorem noteFault_dev (s : State) (idx code : Nat) : (s.noteFault idx code).dev = s.dev := by rw [noteFault_eq]
@[simp] theorem noteFault_jobSt (s : State) (idx code : Nat) : (s.noteFault idx code).jobSt = s.jobSt := by rw [noteFault_eq]
@[simp] theorem noteFault_job (s : State) (idx code : Nat) : (s.noteFault idx code).job = s.job := by rw [noteFault_eq]
@[simp] theorem noteFault_cores (s : State) (idx code : Nat) : (s.noteFault idx code).cores = s.cores := by rw [noteFault_eq]
@[simp] theorem noteFault_hbm (s : State) (idx code : Nat) : (s.noteFault idx code).hbm = s.hbm := by rw [noteFault_eq]
@[simp] theorem noteFault_badLines (s : State) (idx code : Nat) : (s.noteFault idx code).badLines = s.badLines := by rw [noteFault_eq]
@[simp] theorem noteFault_host (s : State) (idx code : Nat) : (s.noteFault idx code).host = s.host := by rw [noteFault_eq]
@[simp] theorem noteFault_pat (s : State) (idx code : Nat) : (s.noteFault idx code).pat = s.pat := by rw [noteFault_eq]
@[simp] theorem noteFault_adt (s : State) (idx code : Nat) : (s.noteFault idx code).adt = s.adt := by rw [noteFault_eq]
@[simp] theorem noteFault_wp (s : State) (idx code : Nat) : (s.noteFault idx code).wp = s.wp := by rw [noteFault_eq]
@[simp] theorem noteFault_remap (s : State) (idx code : Nat) : (s.noteFault idx code).remap = s.remap := by rw [noteFault_eq]
@[simp] theorem noteFault_cast (s : State) (idx code : Nat) : (s.noteFault idx code).cast = s.cast := by rw [noteFault_eq]
@[simp] theorem noteFault_net (s : State) (idx code : Nat) : (s.noteFault idx code).net = s.net := by rw [noteFault_eq]
@[simp] theorem noteFault_ptp (s : State) (idx code : Nat) : (s.noteFault idx code).ptp = s.ptp := by rw [noteFault_eq]
@[simp] theorem noteFault_duo (s : State) (idx code : Nat) : (s.noteFault idx code).duo = s.duo := by rw [noteFault_eq]
@[simp] theorem noteFault_aud (s : State) (idx code : Nat) : (s.noteFault idx code).aud = s.aud := by rw [noteFault_eq]
@[simp] theorem noteFault_mqt (s : State) (idx code : Nat) : (s.noteFault idx code).mqt = s.mqt := by rw [noteFault_eq]
@[simp] theorem noteFault_rcv (s : State) (idx code : Nat) : (s.noteFault idx code).rcv = s.rcv := by rw [noteFault_eq]
@[simp] theorem noteFault_drn (s : State) (idx code : Nat) : (s.noteFault idx code).drn = s.drn := by rw [noteFault_eq]
@[simp] theorem noteFault_evt (s : State) (idx code : Nat) : (s.noteFault idx code).evt = s.evt := by rw [noteFault_eq]
@[simp] theorem noteFault_msix (s : State) (idx code : Nat) : (s.noteFault idx code).msix = s.msix := by rw [noteFault_eq]
@[simp] theorem noteFault_latch (s : State) (idx code : Nat) : (s.noteFault idx code).latch = s.latch := by rw [noteFault_eq]
@[simp] theorem noteFault_pci (s : State) (idx code : Nat) : (s.noteFault idx code).pci = s.pci := by rw [noteFault_eq]
@[simp] theorem noteFault_mgmt (s : State) (idx code : Nat) : (s.noteFault idx code).mgmt = s.mgmt := by rw [noteFault_eq]
@[simp] theorem noteFault_brd (s : State) (idx code : Nat) : (s.noteFault idx code).brd = s.brd := by rw [noteFault_eq]
@[simp] theorem noteFault_pwr (s : State) (idx code : Nat) : (s.noteFault idx code).pwr = s.pwr := by rw [noteFault_eq]
@[simp] theorem noteFault_clk (s : State) (idx code : Nat) : (s.noteFault idx code).clk = s.clk := by rw [noteFault_eq]
@[simp] theorem noteFault_nv (s : State) (idx code : Nat) : (s.noteFault idx code).nv = s.nv := by rw [noteFault_eq]
@[simp] theorem noteFault_pln (s : State) (idx code : Nat) : (s.noteFault idx code).pln = s.pln := by rw [noteFault_eq]
@[simp] theorem noteFault_img (s : State) (idx code : Nat) : (s.noteFault idx code).img = s.img := by rw [noteFault_eq]
@[simp] theorem noteFault_sent (s : State) (idx code : Nat) : (s.noteFault idx code).sent = s.sent := by rw [noteFault_eq]
@[simp] theorem noteFault_reply (s : State) (idx code : Nat) : (s.noteFault idx code).reply = s.reply := by rw [noteFault_eq]
@[simp] theorem noteFault_free (s : State) (idx code : Nat) : (s.noteFault idx code).free = s.free := by rw [noteFault_eq]

/-- A store changes the memory it goes to, and what has left for the host or a peer. -/
theorem store_eq (s : State) (w : Wr) :
    s.store w = { s with cores := (s.store w).cores, hbm := (s.store w).hbm, host := (s.store w).host, net := (s.store w).net, sent := (s.store w).sent } := by
  unfold store; split <;> rfl

@[simp] theorem store_pending (s : State) (w : Wr) : (s.store w).pending = s.pending := by rw [store_eq]
@[simp] theorem store_fus (s : State) (w : Wr) : (s.store w).fus = s.fus := by rw [store_eq]
@[simp] theorem store_dev (s : State) (w : Wr) : (s.store w).dev = s.dev := by rw [store_eq]
@[simp] theorem store_jobSt (s : State) (w : Wr) : (s.store w).jobSt = s.jobSt := by rw [store_eq]
@[simp] theorem store_job (s : State) (w : Wr) : (s.store w).job = s.job := by rw [store_eq]
@[simp] theorem store_badLines (s : State) (w : Wr) : (s.store w).badLines = s.badLines := by rw [store_eq]
@[simp] theorem store_pat (s : State) (w : Wr) : (s.store w).pat = s.pat := by rw [store_eq]
@[simp] theorem store_adt (s : State) (w : Wr) : (s.store w).adt = s.adt := by rw [store_eq]
@[simp] theorem store_wp (s : State) (w : Wr) : (s.store w).wp = s.wp := by rw [store_eq]
@[simp] theorem store_remap (s : State) (w : Wr) : (s.store w).remap = s.remap := by rw [store_eq]
@[simp] theorem store_cast (s : State) (w : Wr) : (s.store w).cast = s.cast := by rw [store_eq]
@[simp] theorem store_ptp (s : State) (w : Wr) : (s.store w).ptp = s.ptp := by rw [store_eq]
@[simp] theorem store_duo (s : State) (w : Wr) : (s.store w).duo = s.duo := by rw [store_eq]
@[simp] theorem store_aud (s : State) (w : Wr) : (s.store w).aud = s.aud := by rw [store_eq]
@[simp] theorem store_mqt (s : State) (w : Wr) : (s.store w).mqt = s.mqt := by rw [store_eq]
@[simp] theorem store_rcv (s : State) (w : Wr) : (s.store w).rcv = s.rcv := by rw [store_eq]
@[simp] theorem store_drn (s : State) (w : Wr) : (s.store w).drn = s.drn := by rw [store_eq]
@[simp] theorem store_evt (s : State) (w : Wr) : (s.store w).evt = s.evt := by rw [store_eq]
@[simp] theorem store_ring (s : State) (w : Wr) : (s.store w).ring = s.ring := by rw [store_eq]
@[simp] theorem store_msix (s : State) (w : Wr) : (s.store w).msix = s.msix := by rw [store_eq]
@[simp] theorem store_latch (s : State) (w : Wr) : (s.store w).latch = s.latch := by rw [store_eq]
@[simp] theorem store_pci (s : State) (w : Wr) : (s.store w).pci = s.pci := by rw [store_eq]
@[simp] theorem store_mgmt (s : State) (w : Wr) : (s.store w).mgmt = s.mgmt := by rw [store_eq]
@[simp] theorem store_brd (s : State) (w : Wr) : (s.store w).brd = s.brd := by rw [store_eq]
@[simp] theorem store_pwr (s : State) (w : Wr) : (s.store w).pwr = s.pwr := by rw [store_eq]
@[simp] theorem store_clk (s : State) (w : Wr) : (s.store w).clk = s.clk := by rw [store_eq]
@[simp] theorem store_nv (s : State) (w : Wr) : (s.store w).nv = s.nv := by rw [store_eq]
@[simp] theorem store_pln (s : State) (w : Wr) : (s.store w).pln = s.pln := by rw [store_eq]
@[simp] theorem store_img (s : State) (w : Wr) : (s.store w).img = s.img := by rw [store_eq]
@[simp] theorem store_reply (s : State) (w : Wr) : (s.store w).reply = s.reply := by rw [store_eq]
@[simp] theorem store_free (s : State) (w : Wr) : (s.store w).free = s.free := by rw [store_eq]

/-- The new job state stands. -/
@[simp] theorem setJob_jobSt (s : State) (j : JobSt) : (s.setJob j).jobSt = j := by
  unfold setJob
  split
  · assumption
  · simp only
    split <;> simp

/-- The new device condition stands. -/
@[simp] theorem setDev_dev (s : State) (d : DevCond) : (s.setDev d).dev = d := by
  unfold setDev
  simp only
  split <;> simp

/-- An event keeps the configuration fields. -/
@[simp] theorem ev_cfg (s : State) (code a0 a1 id : Nat) : (s.ev code a0 a1).cfg id = s.cfg id := by
  unfold cfg; rw [ev_img]

end Sys2Proof.Machine.State
end

