-- ==== Sys2Proof/Laws/Ops.lean ====
section
/-! SUPPORT. The shared operations: for each one equation that names every part of the state that it can change. A later
proof cites these equations and does not unfold the operations. -/
namespace Sys2Proof.Machine

/-- A relation that every step of a fold keeps, the fold keeps. -/
theorem foldl_rel {α σ : Type} (R : σ → σ → Prop) (hr : ∀ s, R s s) (ht : ∀ s t u, R s t → R t u → R s u)
    (g : σ → α → σ) (h : ∀ s a, R s (g s a)) (l : List α) (s : σ) : R s (l.foldl g s) := by
  induction l generalizing s with
  | nil => exact hr s
  | cons a l ih => exact ht _ _ _ (h s a) (ih _)

namespace State

/-- An event's record enters the log. -/
@[simp] theorem event_evt (s : State) (c l d : Nat) (f : FieldRef) (i a b : DWord) :
    (s.event c l d f i a b).evt = s.evt.add ⟨c, l, false, d, f, i, s.drn.beat, s.ptp.wall, a, b⟩ := by
  unfold State.event
  simp only []
  split
  · rfl
  · split <;> simp

/-- The record of a module event. -/
theorem ev_evt (s : State) (c a b : Nat) :
    (s.ev c a b).evt = s.evt.add ⟨c, 0xFF, false, 0, FieldRef.nil, noIdx, s.drn.beat, s.ptp.wall, BitVec.ofNat 64 a, BitVec.ofNat 64 b⟩ :=
  event_evt ..

/-- Held cycles pass (R197, R430). -/
theorem heldCycles_eq (s : State) (n : Nat) :
    s.heldCycles n = { s with job := (s.heldCycles n).job, ptp := (s.heldCycles n).ptp, rcv := (s.heldCycles n).rcv, drn := (s.heldCycles n).drn, pwr := (s.heldCycles n).pwr } := by
  have h : ∃ x0 x1 x2 x3 x4, s.heldCycles n = { s with job := x0, ptp := x1, rcv := x2, drn := x3, pwr := x4 } := by
    unfold State.heldCycles
    try simp only []
    (repeat' split) <;>
    exact ⟨_, _, _, _, _, rfl⟩
  obtain ⟨_, _, _, _, _, h⟩ := h
  rw [h]

/-- Held cycles pass (R197 to R199). -/
theorem passHeld_eq (s : State) (n : Nat) :
    s.passHeld n = { s with job := (s.passHeld n).job, ptp := (s.passHeld n).ptp, rcv := (s.passHeld n).rcv, drn := (s.passHeld n).drn, evt := (s.passHeld n).evt, msix := (s.passHeld n).msix, pwr := (s.passHeld n).pwr, sent := (s.passHeld n).sent } := by
  have h : ∃ x0 x1 x2 x3 x4 x5 x6 x7, s.passHeld n = { s with job := x0, ptp := x1, rcv := x2, drn := x3, evt := x4, msix := x5, pwr := x6, sent := x7 } := by
    unfold State.passHeld
    simp only []
    split
    · rw [heldCycles_eq, event_eq, heldCycles_eq]; exact ⟨_, _, _, _, _, _, _, _, rfl⟩
    · rw [heldCycles_eq]; exact ⟨_, _, _, _, _, _, _, _, rfl⟩
  obtain ⟨_, _, _, _, _, _, _, _, h⟩ := h
  rw [h]

/-- A hold begins (R197, R204). -/
theorem enterHold_eq (s : State) (v : List Vote) :
    s.enterHold v = { s with jobSt := (s.enterHold v).jobSt, job := (s.enterHold v).job, cores := (s.enterHold v).cores, ptp := (s.enterHold v).ptp, rcv := (s.enterHold v).rcv, drn := (s.enterHold v).drn, evt := (s.enterHold v).evt, msix := (s.enterHold v).msix, pwr := (s.enterHold v).pwr, sent := (s.enterHold v).sent } := by
  have h : ∃ x0 x1 x2 x3 x4 x5 x6 x7 x8 x9, s.enterHold v = { s with jobSt := x0, job := x1, cores := x2, ptp := x3, rcv := x4, drn := x5, evt := x6, msix := x7, pwr := x8, sent := x9 } := by
    unfold State.enterHold
    try simp only []
    (repeat' split) <;>
    (try rw [passHeld_eq]) <;>
    (try rw [setJob_eq]) <;>
    exact ⟨_, _, _, _, _, _, _, _, _, _, rfl⟩
  obtain ⟨_, _, _, _, _, _, _, _, _, _, h⟩ := h
  rw [h]

/-- A hold ends. -/
theorem leaveHold_eq (s : State) :
    s.leaveHold = { s with jobSt := (s.leaveHold).jobSt, drn := (s.leaveHold).drn, msix := (s.leaveHold).msix, sent := (s.leaveHold).sent } := by
  have h : ∃ x0 x1 x2 x3, s.leaveHold = { s with jobSt := x0, drn := x1, msix := x2, sent := x3 } := by
    unfold State.leaveHold
    try simp only []
    (repeat' split) <;>
    (try rw [setJob_eq]) <;>
    exact ⟨_, _, _, _, rfl⟩
  obtain ⟨_, _, _, _, h⟩ := h
  rw [h]

/-- A hold within one command. -/
theorem ownHold_eq (s : State) (c n : Nat) :
    s.ownHold c n = { s with jobSt := (s.ownHold c n).jobSt, job := (s.ownHold c n).job, cores := (s.ownHold c n).cores, ptp := (s.ownHold c n).ptp, rcv := (s.ownHold c n).rcv, drn := (s.ownHold c n).drn, evt := (s.ownHold c n).evt, msix := (s.ownHold c n).msix, pwr := (s.ownHold c n).pwr, sent := (s.ownHold c n).sent } := by
  have h : ∃ x0 x1 x2 x3 x4 x5 x6 x7 x8 x9, s.ownHold c n = { s with jobSt := x0, job := x1, cores := x2, ptp := x3, rcv := x4, drn := x5, evt := x6, msix := x7, pwr := x8, sent := x9 } := by
    unfold State.ownHold
    try simp only []
    (repeat' split) <;>
    (try rw [leaveHold_eq]) <;>
    (try rw [passHeld_eq]) <;>
    (try rw [enterHold_eq]) <;>
    exact ⟨_, _, _, _, _, _, _, _, _, _, rfl⟩
  obtain ⟨_, _, _, _, _, _, _, _, _, _, h⟩ := h
  rw [h]

/-- Writes become visible. -/
theorem stores_eq (s : State) (ws : List Wr) :
    s.stores ws = { s with cores := (s.stores ws).cores, hbm := (s.stores ws).hbm, host := (s.stores ws).host, net := (s.stores ws).net, sent := (s.stores ws).sent } := by
  have h : ∃ x0 x1 x2 x3 x4, s.stores ws = { s with cores := x0, hbm := x1, host := x2, net := x3, sent := x4 } := by
    refine foldl_rel (fun s t : State => ∃ x0 x1 x2 x3 x4, t = { s with cores := x0, hbm := x1, host := x2, net := x3, sent := x4 }) ?_ ?_ _ ?_ _ _
    · intro s; exact ⟨_, _, _, _, _, rfl⟩
    · rintro s t u ⟨_, _, _, _, _, rfl⟩ ⟨_, _, _, _, _, rfl⟩; exact ⟨_, _, _, _, _, rfl⟩
    · intro s a
      rw [store_eq]; exact ⟨_, _, _, _, _, rfl⟩
  obtain ⟨_, _, _, _, _, h⟩ := h
  rw [h]

/-- A write of an abandoned command (R222). -/
theorem mixStore_eq (s : State) (w : Wr) :
    s.mixStore w = { s with cores := (s.mixStore w).cores, hbm := (s.mixStore w).hbm, host := (s.mixStore w).host, net := (s.mixStore w).net, sent := (s.mixStore w).sent, free := (s.mixStore w).free } := by
  have h : ∃ x0 x1 x2 x3 x4 x5, s.mixStore w = { s with cores := x0, hbm := x1, host := x2, net := x3, sent := x4, free := x5 } := by
    unfold State.mixStore
    try simp only []
    (repeat' split) <;>
    (try rw [store_eq]) <;>
    exact ⟨_, _, _, _, _, _, rfl⟩
  obtain ⟨_, _, _, _, _, _, h⟩ := h
  rw [h]

/-- What an abandoned command may have written takes only free bytes (R222). -/
theorem couldWrite_eq (s : State) (f : Flight) :
    (s.couldWrite f).2 = { s with free := ((s.couldWrite f).2).free } := by
  have h : ∃ x0, (s.couldWrite f).2 = { s with free := x0 } := by
    have hb : ∀ n, ∃ k, (s.bytes n).2 = { s with free := k } := fun n => ⟨_, rfl⟩
    unfold State.couldWrite
    simp only []
    (repeat' split) <;> first | exact hb _ | exact ⟨_, rfl⟩
  obtain ⟨_, h⟩ := h
  rw [h]

/-- Every command in flight is abandoned (R222). -/
theorem abandon_eq (s : State) :
    s.abandon = { s with job := (s.abandon).job, cores := (s.abandon).cores, hbm := (s.abandon).hbm, host := (s.abandon).host, net := (s.abandon).net, sent := (s.abandon).sent, free := (s.abandon).free } := by
  have h : ∃ x0 x1 x2 x3 x4 x5 x6, s.abandon = { s with job := x0, cores := x1, hbm := x2, host := x3, net := x4, sent := x5, free := x6 } := by
    have hm : ∀ (ws : List Wr) (s : State), ∃ a b c d e f, ws.foldl State.mixStore s =
        { s with cores := a, hbm := b, host := c, net := d, sent := e, free := f } := by
      intro ws s
      refine foldl_rel (fun s t : State => ∃ a b c d e f, t = { s with cores := a, hbm := b, host := c, net := d, sent := e, free := f })
        ?_ ?_ _ ?_ _ _
      · intro s; exact ⟨_, _, _, _, _, _, rfl⟩
      · rintro s t u ⟨_, _, _, _, _, _, rfl⟩ ⟨_, _, _, _, _, _, rfl⟩; exact ⟨_, _, _, _, _, _, rfl⟩
      · intro s a; rw [mixStore_eq]; exact ⟨_, _, _, _, _, _, rfl⟩
    have hf : ∀ fs : List Flight, ∃ a b c d e f, fs.foldl (fun (t : State) f => (t.couldWrite f).1.foldl State.mixStore (t.couldWrite f).2) s =
        { s with cores := a, hbm := b, host := c, net := d, sent := e, free := f } := by
      intro fs
      refine foldl_rel (fun s t : State => ∃ a b c d e f, t = { s with cores := a, hbm := b, host := c, net := d, sent := e, free := f })
        ?_ ?_ _ ?_ _ _
      · intro s; exact ⟨_, _, _, _, _, _, rfl⟩
      · rintro s t u ⟨_, _, _, _, _, _, rfl⟩ ⟨_, _, _, _, _, _, rfl⟩; exact ⟨_, _, _, _, _, _, rfl⟩
      · intro s f
        obtain ⟨_, _, _, _, _, _, h⟩ := hm (s.couldWrite f).1 (s.couldWrite f).2
        rw [h, couldWrite_eq]; exact ⟨_, _, _, _, _, _, rfl⟩
    unfold State.abandon
    obtain ⟨_, _, _, _, _, _, h⟩ := hf (s.job.flights.filter (fun f => f.issued))
    simp only [h]
    exact ⟨_, _, _, _, _, _, _, rfl⟩
  obtain ⟨_, _, _, _, _, _, _, h⟩ := h
  rw [h]

/-- A packet goes out. -/
theorem emit_eq (s : State) (r : Nat) (p : Packet) :
    s.emit r p = { s with net := (s.emit r p).net } := by
  have h : ∃ x0, s.emit r p = { s with net := x0 } := by
    unfold State.emit
    try simp only []
    (repeat' split) <;>
    exact ⟨_, rfl⟩
  obtain ⟨_, h⟩ := h
  rw [h]

/-- A packet is kept for a replay (R344). -/
theorem keepCopy_eq (s : State) (p : Packet) :
    s.keepCopy p = { s with net := (s.keepCopy p).net } := by
  have h : ∃ x0, s.keepCopy p = { s with net := x0 } := by
    unfold State.keepCopy
    try simp only []
    (repeat' split) <;>
    exact ⟨_, rfl⟩
  obtain ⟨_, h⟩ := h
  rw [h]

/-- A packet of a flow goes out, where it can (R160). -/
theorem sendOut_eq (r : Nat) (s : State) (x : TxPkt) :
    s.sendOut r x = { s with net := (s.sendOut r x).net } := by
  have h : ∃ x0, s.sendOut r x = { s with net := x0 } := by
    unfold State.sendOut
    split
    · exact ⟨_, rfl⟩
    · rw [emit_eq]; exact ⟨_, rfl⟩
  obtain ⟨_, h⟩ := h
  rw [h]

/-- What a flow holds and its window admits goes out (R328). -/
theorem flush_eq (s : State) (r : Nat) :
    s.flush r = { s with net := (s.flush r).net } := by
  have h : ∃ x0, s.flush r = { s with net := x0 } := by
    unfold State.flush
    simp only []
    split
    · exact ⟨_, rfl⟩
    · refine foldl_rel (fun s t : State => ∃ n, t = { s with net := n }) ?_ ?_ _ ?_ _ _
      · intro s; exact ⟨_, rfl⟩
      · rintro s t u ⟨_, rfl⟩ ⟨_, rfl⟩; exact ⟨_, rfl⟩
      · intro s a; exact ⟨_, sendOut_eq r s a⟩
  obtain ⟨_, h⟩ := h
  rw [h]

/-- A packet goes out in its flow (R328). -/
theorem send_eq (s : State) (r : Nat) (p : Packet) :
    s.send r p = { s with net := (s.send r p).net } := by
  have h : ∃ x0, s.send r p = { s with net := x0 } := by
    unfold State.send
    try simp only []
    (repeat' split) <;>
    (try rw [flush_eq]) <;>
    (try rw [keepCopy_eq]) <;>
    exact ⟨_, rfl⟩
  obtain ⟨_, h⟩ := h
  rw [h]

/-- A packet goes to the Duo partner. -/
theorem sendDuo_eq (s : State) (k : Nat) (b : List Byte) :
    s.sendDuo k b = { s with net := (s.sendDuo k b).net } := by
  have h : ∃ x0, s.sendDuo k b = { s with net := x0 } := by
    unfold State.sendDuo
    try simp only []
    (repeat' split) <;>
    (try rw [send_eq]) <;>
    exact ⟨_, rfl⟩
  obtain ⟨_, h⟩ := h
  rw [h]

/-- A replayed entry is compared with the one kept (R404). -/
theorem checkKept_eq (s : State) (e : JEntry) :
    s.checkKept e = { s with job := (s.checkKept e).job, evt := (s.checkKept e).evt, ring := (s.checkKept e).ring, msix := (s.checkKept e).msix, sent := (s.checkKept e).sent } := by
  have h : ∃ x0 x1 x2 x3 x4, s.checkKept e = { s with job := x0, evt := x1, ring := x2, msix := x3, sent := x4 } := by
    unfold State.checkKept
    try simp only []
    (repeat' split) <;>
    (try rw [noteFault_eq]) <;>
    (try rw [evCmd_eq]) <;>
    exact ⟨_, _, _, _, _, rfl⟩
  obtain ⟨_, _, _, _, _, h⟩ := h
  rw [h]

/-- An entry enters the journal. -/
theorem jAdd_eq (s : State) (e : JEntry) :
    s.jAdd e = { s with job := (s.jAdd e).job, evt := (s.jAdd e).evt, ring := (s.jAdd e).ring, msix := (s.jAdd e).msix, sent := (s.jAdd e).sent } := by
  have h : ∃ x0 x1 x2 x3 x4, s.jAdd e = { s with job := x0, evt := x1, ring := x2, msix := x3, sent := x4 } := by
    unfold State.jAdd
    try simp only []
    (repeat' split) <;>
    (try rw [checkKept_eq]) <;>
    exact ⟨_, _, _, _, _, rfl⟩
  obtain ⟨_, _, _, _, _, h⟩ := h
  rw [h]

/-- An entry enters the journal in place of another. -/
theorem jPut_eq (s : State) (e : JEntry) :
    s.jPut e = { s with job := (s.jPut e).job, evt := (s.jPut e).evt, ring := (s.jPut e).ring, msix := (s.jPut e).msix, sent := (s.jPut e).sent } := by
  have h : ∃ x0 x1 x2 x3 x4, s.jPut e = { s with job := x0, evt := x1, ring := x2, msix := x3, sent := x4 } := by
    unfold State.jPut
    try simp only []
    (repeat' split) <;>
    (try rw [jAdd_eq]) <;>
    exact ⟨_, _, _, _, _, rfl⟩
  obtain ⟨_, _, _, _, _, h⟩ := h
  rw [h]

/-- The journal of a step opens. -/
theorem openStep_eq (s : State) :
    s.openStep = { s with job := (s.openStep).job } := by
  have h : ∃ x0, s.openStep = { s with job := x0 } := by
    unfold State.openStep
    try simp only []
    (repeat' split) <;>
    exact ⟨_, rfl⟩
  obtain ⟨_, h⟩ := h
  rw [h]

/-- Records enter the journal (R248). -/
theorem pushRecs_eq (s : State) (h : RecHdr) (ps : List (List JEntry)) :
    s.pushRecs h ps = { s with job := (s.pushRecs h ps).job } := by
  have h : ∃ x0, s.pushRecs h ps = { s with job := x0 } := by
    have hg : ∀ (g : State × Nat → List JEntry → State × Nat), (∀ s es, ∃ j, (g s es).1 = { s.1 with job := j }) →
        ∀ (l : List (List JEntry)) (s : State × Nat), ∃ j, (l.foldl g s).1 = { s.1 with job := j } := by
      intro g hg l
      induction l with
      | nil => intro s; exact ⟨_, rfl⟩
      | cons a l ih =>
        intro s
        obtain ⟨_, h1⟩ := hg s a
        obtain ⟨_, h2⟩ := ih (g s a)
        rw [List.foldl_cons, h2, h1]; exact ⟨_, rfl⟩
    unfold State.pushRecs
    dsimp only
    refine hg _ ?_ ps (s, 0)
    intro s es
    exact ⟨_, rfl⟩
  obtain ⟨_, h⟩ := h
  rw [h]

/-- Bytes go to an epoch's target (R390). -/
theorem toTarget_eq (s : State) (e : Epoch) (o n : Nat) (m : Mem) (d : Bool) :
    s.toTarget e o n m d = { s with host := (s.toTarget e o n m d).host, mqt := (s.toTarget e o n m d).mqt, sent := (s.toTarget e o n m d).sent } := by
  have h : ∃ x0 x1 x2, s.toTarget e o n m d = { s with host := x0, mqt := x1, sent := x2 } := by
    unfold State.toTarget State.sendWrite
    simp only []
    split <;> exact ⟨_, _, _, rfl⟩
  obtain ⟨_, _, _, h⟩ := h
  rw [h]

/-- A record of an open epoch's step goes to its image (R397). -/
theorem keepRecord_eq (s : State) (r : List Byte) :
    s.keepRecord r = { s with host := (s.keepRecord r).host, mqt := (s.keepRecord r).mqt, sent := (s.keepRecord r).sent } := by
  have h : ∃ x0 x1 x2, s.keepRecord r = { s with host := x0, mqt := x1, sent := x2 } := by
    unfold State.keepRecord
    try simp only []
    (repeat' split) <;>
    (try rw [toTarget_eq]) <;>
    exact ⟨_, _, _, rfl⟩
  obtain ⟨_, _, _, h⟩ := h
  rw [h]

/-- Records become visible (R248, R249). -/
theorem flushJrn_eq (n : Nat) (s : State) :
    State.flushJrn n s = { s with job := (State.flushJrn n s).job, cores := (State.flushJrn n s).cores, hbm := (State.flushJrn n s).hbm, host := (State.flushJrn n s).host, net := (State.flushJrn n s).net, mqt := (State.flushJrn n s).mqt, msix := (State.flushJrn n s).msix, sent := (State.flushJrn n s).sent } := by
  have h : ∃ x0 x1 x2 x3 x4 x5 x6 x7, State.flushJrn n s = { s with job := x0, cores := x1, hbm := x2, host := x3, net := x4, mqt := x5, msix := x6, sent := x7 } := by
    induction n generalizing s with
    | zero => exact ⟨_, _, _, _, _, _, _, _, rfl⟩
    | succ n ih =>
      unfold State.flushJrn
      split
      · exact ⟨_, _, _, _, _, _, _, _, rfl⟩
      · split
        · rename_i r _ _ _
          simp only []
          have h1 : ∀ (t : State), ∃ x0 x1 x2 x3 x4, t.stores (s.jrnWrites s.job.jrn.head r) = { t with cores := x0, hbm := x1, host := x2, net := x3, sent := x4 } := fun t => ⟨_, _, _, _, _, stores_eq t _⟩
          have h2 : ∀ (t : State), ∃ x0 x1 x2, t.keepRecord r = { t with host := x0, mqt := x1, sent := x2 } := fun t => ⟨_, _, _, keepRecord_eq t _⟩
          have h3 : ∀ (t : State), ∃ x0 x1, t.irq 3 = { t with msix := x0, sent := x1 } := fun t => ⟨_, _, irq_eq t _⟩
          obtain ⟨_, _, _, _, _, k⟩ := h1 _
          rw [k]
          obtain ⟨_, _, _, k⟩ := h2 _
          rw [k]
          obtain ⟨_, _, k⟩ := h3 _
          rw [k]
          obtain ⟨_, _, _, _, _, _, _, _, h⟩ := ih _
          rw [h]; exact ⟨_, _, _, _, _, _, _, _, rfl⟩
        · exact ⟨_, _, _, _, _, _, _, _, rfl⟩
  obtain ⟨_, _, _, _, _, _, _, _, h⟩ := h
  rw [h]

/-- What has room becomes visible. -/
theorem journalOut_eq (s : State) :
    s.journalOut = { s with job := (s.journalOut).job, cores := (s.journalOut).cores, hbm := (s.journalOut).hbm, host := (s.journalOut).host, net := (s.journalOut).net, mqt := (s.journalOut).mqt, msix := (s.journalOut).msix, sent := (s.journalOut).sent } := by
  have h : ∃ x0 x1 x2 x3 x4 x5 x6 x7, s.journalOut = { s with job := x0, cores := x1, hbm := x2, host := x3, net := x4, mqt := x5, msix := x6, sent := x7 } := by
    unfold State.journalOut
    try simp only []
    (repeat' split) <;>
    (try rw [flushJrn_eq]) <;>
    exact ⟨_, _, _, _, _, _, _, _, rfl⟩
  obtain ⟨_, _, _, _, _, _, _, _, h⟩ := h
  rw [h]

/-- The JOB record (R248). -/
theorem jobRecord_eq (s : State) :
    s.jobRecord = { s with job := (s.jobRecord).job } := by
  have h : ∃ x0, s.jobRecord = { s with job := x0 } := by
    unfold State.jobRecord
    try simp only []
    (repeat' split) <;>
    (try rw [pushRecs_eq]) <;>
    exact ⟨_, rfl⟩
  obtain ⟨_, h⟩ := h
  rw [h]

/-- The END record (R248). -/
theorem pushEnd_eq (s : State) :
    s.pushEnd = { s with job := (s.pushEnd).job } := by
  have h : ∃ x0, s.pushEnd = { s with job := x0 } := by
    unfold State.pushEnd
    try simp only []
    (repeat' split) <;>
    (try rw [pushRecs_eq]) <;>
    exact ⟨_, rfl⟩
  obtain ⟨_, h⟩ := h
  rw [h]

/-- A step is compared with the reference (R257). -/
theorem compareRef_eq (s : State) (x : Option Nat) (h : RecHdr) (es : List JEntry) :
    s.compareRef x h es = { s with job := (s.compareRef x h es).job, aud := (s.compareRef x h es).aud, evt := (s.compareRef x h es).evt, ring := (s.compareRef x h es).ring, msix := (s.compareRef x h es).msix, sent := (s.compareRef x h es).sent } := by
  have h : ∃ x0 x1 x2 x3 x4 x5, s.compareRef x h es = { s with job := x0, aud := x1, evt := x2, ring := x3, msix := x4, sent := x5 } := by
    unfold State.compareRef
    try simp only []
    (repeat' split) <;>
    (try rw [noteFault_eq]) <;>
    (try rw [ev_eq]) <;>
    exact ⟨_, _, _, _, _, _, rfl⟩
  obtain ⟨_, _, _, _, _, _, h⟩ := h
  rw [h]

/-- A step's record is made (R248). -/
theorem closeStep_eq (s : State) (c : Bool) (b n : Nat) (x : Option Nat) :
    s.closeStep c b n x = { s with job := (s.closeStep c b n x).job, aud := (s.closeStep c b n x).aud, rcv := (s.closeStep c b n x).rcv, evt := (s.closeStep c b n x).evt, ring := (s.closeStep c b n x).ring, msix := (s.closeStep c b n x).msix, sent := (s.closeStep c b n x).sent } := by
  have h : ∃ x0 x1 x2 x3 x4 x5 x6, s.closeStep c b n x = { s with job := x0, aud := x1, rcv := x2, evt := x3, ring := x4, msix := x5, sent := x6 } := by
    unfold State.closeStep
    try simp only []
    (repeat' split) <;>
    (try rw [compareRef_eq]) <;>
    (try rw [pushRecs_eq]) <;>
    exact ⟨_, _, _, _, _, _, _, rfl⟩
  obtain ⟨_, _, _, _, _, _, _, h⟩ := h
  rw [h]

/-- The records of a job that ends (R248). -/
theorem endRecords_eq (s : State) (c : Bool) (n : Nat) :
    s.endRecords c n = { s with job := (s.endRecords c n).job, cores := (s.endRecords c n).cores, hbm := (s.endRecords c n).hbm, host := (s.endRecords c n).host, net := (s.endRecords c n).net, aud := (s.endRecords c n).aud, mqt := (s.endRecords c n).mqt, rcv := (s.endRecords c n).rcv, evt := (s.endRecords c n).evt, ring := (s.endRecords c n).ring, msix := (s.endRecords c n).msix, sent := (s.endRecords c n).sent } := by
  have h : ∃ x0 x1 x2 x3 x4 x5 x6 x7 x8 x9 x10 x11, s.endRecords c n = { s with job := x0, cores := x1, hbm := x2, host := x3, net := x4, aud := x5, mqt := x6, rcv := x7, evt := x8, ring := x9, msix := x10, sent := x11 } := by
    unfold State.endRecords
    try simp only []
    (repeat' split) <;>
    (try rw [journalOut_eq]) <;>
    (try rw [pushEnd_eq]) <;>
    (try rw [closeStep_eq]) <;>
    exact ⟨_, _, _, _, _, _, _, _, _, _, _, _, rfl⟩
  obtain ⟨_, _, _, _, _, _, _, _, _, _, _, _, h⟩ := h
  rw [h]

/-- A boundary that falls due is dropped with its job. -/
theorem dropBoundary_eq (s : State) :
    s.dropBoundary = { s with job := (s.dropBoundary).job, cast := (s.dropBoundary).cast } := by
  have h : ∃ x0 x1, s.dropBoundary = { s with job := x0, cast := x1 } := by
    unfold State.dropBoundary
    try simp only []
    (repeat' split) <;>
    exact ⟨_, _, rfl⟩
  obtain ⟨_, _, h⟩ := h
  rw [h]

/-- A launched job is FAULTED. -/
theorem faultNow_eq (s : State) :
    s.faultNow = { s with jobSt := (s.faultNow).jobSt, job := (s.faultNow).job, cores := (s.faultNow).cores, hbm := (s.faultNow).hbm, host := (s.faultNow).host, cast := (s.faultNow).cast, net := (s.faultNow).net, aud := (s.faultNow).aud, mqt := (s.faultNow).mqt, rcv := (s.faultNow).rcv, drn := (s.faultNow).drn, evt := (s.faultNow).evt, ring := (s.faultNow).ring, msix := (s.faultNow).msix, sent := (s.faultNow).sent, free := (s.faultNow).free } := by
  have h : ∃ x0 x1 x2 x3 x4 x5 x6 x7 x8 x9 x10 x11 x12 x13 x14 x15, s.faultNow = { s with jobSt := x0, job := x1, cores := x2, hbm := x3, host := x4, cast := x5, net := x6, aud := x7, mqt := x8, rcv := x9, drn := x10, evt := x11, ring := x12, msix := x13, sent := x14, free := x15 } := by
    unfold State.faultNow
    simp only []
    have h0 : ∀ (t : State), ∃ x0 x1, t.dropBoundary = { t with job := x0, cast := x1 } := fun t => ⟨_, _, dropBoundary_eq t⟩
    have h1 : ∀ (t : State), ∃ x0 x1 x2 x3 x4 x5 x6, t.abandon = { t with job := x0, cores := x1, hbm := x2, host := x3, net := x4, sent := x5, free := x6 } := fun t => ⟨_, _, _, _, _, _, _, abandon_eq t⟩
    have h2 : ∀ (t : State), ∃ x0 x1 x2 x3 x4 x5 x6 x7 x8 x9 x10 x11, t.endRecords true s.stepCmds = { t with job := x0, cores := x1, hbm := x2, host := x3, net := x4, aud := x5, mqt := x6, rcv := x7, evt := x8, ring := x9, msix := x10, sent := x11 } := fun t => ⟨_, _, _, _, _, _, _, _, _, _, _, _, endRecords_eq t _ _⟩
    have h3 : ∀ (t : State), ∃ x0 x1 x2, t.setJob .faulted = { t with jobSt := x0, msix := x1, sent := x2 } := fun t => ⟨_, _, _, setJob_eq t _⟩
    obtain ⟨_, _, _, _, _, _, _, k⟩ := h1 _
    rw [k]
    obtain ⟨_, _, k⟩ := h0 _
    rw [k]
    obtain ⟨_, _, _, _, _, _, _, _, _, _, _, _, k⟩ := h2 _
    rw [k]
    obtain ⟨_, _, _, k⟩ := h3 _
    rw [k]
    split
    · rw [reject_eq]; exact ⟨_, _, _, _, _, _, _, _, _, _, _, _, _, _, _, _, rfl⟩
    · exact ⟨_, _, _, _, _, _, _, _, _, _, _, _, _, _, _, _, rfl⟩
  obtain ⟨_, _, _, _, _, _, _, _, _, _, _, _, _, _, _, _, h⟩ := h
  rw [h]

/-- A launched job is DONE. -/
theorem doneNow_eq (s : State) (n : Nat) :
    s.doneNow n = { s with jobSt := (s.doneNow n).jobSt, job := (s.doneNow n).job, cores := (s.doneNow n).cores, hbm := (s.doneNow n).hbm, host := (s.doneNow n).host, net := (s.doneNow n).net, aud := (s.doneNow n).aud, mqt := (s.doneNow n).mqt, rcv := (s.doneNow n).rcv, evt := (s.doneNow n).evt, ring := (s.doneNow n).ring, msix := (s.doneNow n).msix, sent := (s.doneNow n).sent } := by
  have h : ∃ x0 x1 x2 x3 x4 x5 x6 x7 x8 x9 x10 x11 x12, s.doneNow n = { s with jobSt := x0, job := x1, cores := x2, hbm := x3, host := x4, net := x5, aud := x6, mqt := x7, rcv := x8, evt := x9, ring := x10, msix := x11, sent := x12 } := by
    unfold State.doneNow
    try simp only []
    (repeat' split) <;>
    (try rw [reject_eq]) <;>
    (try rw [setJob_eq]) <;>
    (try rw [endRecords_eq]) <;>
    exact ⟨_, _, _, _, _, _, _, _, _, _, _, _, _, rfl⟩
  obtain ⟨_, _, _, _, _, _, _, _, _, _, _, _, _, h⟩ := h
  rw [h]

/-- A job that has not been launched is FAULTED (R248). -/
theorem endLoad_eq (s : State) :
    s.endLoad = { s with jobSt := (s.endLoad).jobSt, job := (s.endLoad).job, cores := (s.endLoad).cores, hbm := (s.endLoad).hbm, host := (s.endLoad).host, net := (s.endLoad).net, mqt := (s.endLoad).mqt, msix := (s.endLoad).msix, sent := (s.endLoad).sent } := by
  have h : ∃ x0 x1 x2 x3 x4 x5 x6 x7 x8, s.endLoad = { s with jobSt := x0, job := x1, cores := x2, hbm := x3, host := x4, net := x5, mqt := x6, msix := x7, sent := x8 } := by
    unfold State.endLoad
    try simp only []
    (repeat' split) <;>
    (try rw [setJob_eq]) <;>
    (try rw [journalOut_eq]) <;>
    (try rw [pushEnd_eq]) <;>
    exact ⟨_, _, _, _, _, _, _, _, _, rfl⟩
  obtain ⟨_, _, _, _, _, _, _, _, _, h⟩ := h
  rw [h]

/-- The job is FAULTED at once. -/
theorem killJob_eq (s : State) :
    s.killJob = { s with jobSt := (s.killJob).jobSt, job := (s.killJob).job, cores := (s.killJob).cores, hbm := (s.killJob).hbm, host := (s.killJob).host, cast := (s.killJob).cast, net := (s.killJob).net, aud := (s.killJob).aud, mqt := (s.killJob).mqt, rcv := (s.killJob).rcv, drn := (s.killJob).drn, evt := (s.killJob).evt, ring := (s.killJob).ring, msix := (s.killJob).msix, sent := (s.killJob).sent, free := (s.killJob).free } := by
  have h : ∃ x0 x1 x2 x3 x4 x5 x6 x7 x8 x9 x10 x11 x12 x13 x14 x15, s.killJob = { s with jobSt := x0, job := x1, cores := x2, hbm := x3, host := x4, cast := x5, net := x6, aud := x7, mqt := x8, rcv := x9, drn := x10, evt := x11, ring := x12, msix := x13, sent := x14, free := x15 } := by
    unfold State.killJob
    try simp only []
    (repeat' split) <;>
    (try rw [endLoad_eq]) <;>
    (try rw [faultNow_eq]) <;>
    exact ⟨_, _, _, _, _, _, _, _, _, _, _, _, _, _, _, _, rfl⟩
  obtain ⟨_, _, _, _, _, _, _, _, _, _, _, _, _, _, _, _, h⟩ := h
  rw [h]

/-- The device fails (R224). -/
theorem fail_eq (s : State) :
    s.fail = { s with dev := (s.fail).dev, jobSt := (s.fail).jobSt, job := (s.fail).job, cores := (s.fail).cores, hbm := (s.fail).hbm, host := (s.fail).host, cast := (s.fail).cast, net := (s.fail).net, aud := (s.fail).aud, mqt := (s.fail).mqt, rcv := (s.fail).rcv, drn := (s.fail).drn, evt := (s.fail).evt, ring := (s.fail).ring, msix := (s.fail).msix, sent := (s.fail).sent, free := (s.fail).free } := by
  have h : ∃ x0 x1 x2 x3 x4 x5 x6 x7 x8 x9 x10 x11 x12 x13 x14 x15 x16, s.fail = { s with dev := x0, jobSt := x1, job := x2, cores := x3, hbm := x4, host := x5, cast := x6, net := x7, aud := x8, mqt := x9, rcv := x10, drn := x11, evt := x12, ring := x13, msix := x14, sent := x15, free := x16 } := by
    unfold State.fail
    try simp only []
    (repeat' split) <;>
    (try rw [killJob_eq]) <;>
    (try rw [setDev_eq]) <;>
    exact ⟨_, _, _, _, _, _, _, _, _, _, _, _, _, _, _, _, _, rfl⟩
  obtain ⟨_, _, _, _, _, _, _, _, _, _, _, _, _, _, _, _, _, h⟩ := h
  rw [h]

/-- Messages that wait are cut to the boundaries formed. -/
theorem cutBnds_eq (s : State) :
    s.cutBnds = { s with duo := (s.cutBnds).duo } := by
  have h : ∃ x0, s.cutBnds = { s with duo := x0 } := by
    unfold State.cutBnds
    try simp only []
    (repeat' split) <;>
    exact ⟨_, rfl⟩
  obtain ⟨_, h⟩ := h
  rw [h]

/-- A compute-only reset begins (R402). -/
theorem trigger_eq (s : State) (c : Nat) :
    s.trigger c = { s with dev := (s.trigger c).dev, jobSt := (s.trigger c).jobSt, job := (s.trigger c).job, cores := (s.trigger c).cores, hbm := (s.trigger c).hbm, host := (s.trigger c).host, cast := (s.trigger c).cast, net := (s.trigger c).net, duo := (s.trigger c).duo, aud := (s.trigger c).aud, mqt := (s.trigger c).mqt, rcv := (s.trigger c).rcv, drn := (s.trigger c).drn, evt := (s.trigger c).evt, ring := (s.trigger c).ring, msix := (s.trigger c).msix, sent := (s.trigger c).sent, free := (s.trigger c).free } := by
  have h : ∃ x0 x1 x2 x3 x4 x5 x6 x7 x8 x9 x10 x11 x12 x13 x14 x15 x16 x17, s.trigger c = { s with dev := x0, jobSt := x1, job := x2, cores := x3, hbm := x4, host := x5, cast := x6, net := x7, duo := x8, aud := x9, mqt := x10, rcv := x11, drn := x12, evt := x13, ring := x14, msix := x15, sent := x16, free := x17 } := by
    unfold State.trigger
    split
    · exact ⟨_, _, _, _, _, _, _, _, _, _, _, _, _, _, _, _, _, _, rfl⟩
    · have h0 : ∃ x0 x1 x2 x3 x4 x5 x6 x7 x8 x9 x10 x11 x12 x13 x14 x15, (if s.live && s.job.kill.isSome then s.faultNow else s) = { s with jobSt := x0, job := x1, cores := x2, hbm := x3, host := x4, cast := x5, net := x6, aud := x7, mqt := x8, rcv := x9, drn := x10, evt := x11, ring := x12, msix := x13, sent := x14, free := x15 } := by
        split
        · exact ⟨_, _, _, _, _, _, _, _, _, _, _, _, _, _, _, _, faultNow_eq s⟩
        · exact ⟨_, _, _, _, _, _, _, _, _, _, _, _, _, _, _, _, rfl⟩
      obtain ⟨_, _, _, _, _, _, _, _, _, _, _, _, _, _, _, _, h0⟩ := h0
      rw [h0]
      simp only []
      (repeat' split) <;>
      (try rw [cutBnds_eq]) <;>
      (try rw [abandon_eq]) <;>
      rw [ev_eq, setDev_eq] <;>
      exact ⟨_, _, _, _, _, _, _, _, _, _, _, _, _, _, _, _, _, _, rfl⟩
  obtain ⟨_, _, _, _, _, _, _, _, _, _, _, _, _, _, _, _, _, _, h⟩ := h
  rw [h]

/-- A reset follows a checker's finding (R402). -/
theorem autoReset_eq (s : State) (b : Bool) :
    s.autoReset b = { s with dev := (s.autoReset b).dev, jobSt := (s.autoReset b).jobSt, job := (s.autoReset b).job, cores := (s.autoReset b).cores, hbm := (s.autoReset b).hbm, host := (s.autoReset b).host, cast := (s.autoReset b).cast, net := (s.autoReset b).net, duo := (s.autoReset b).duo, aud := (s.autoReset b).aud, mqt := (s.autoReset b).mqt, rcv := (s.autoReset b).rcv, drn := (s.autoReset b).drn, evt := (s.autoReset b).evt, ring := (s.autoReset b).ring, msix := (s.autoReset b).msix, sent := (s.autoReset b).sent, free := (s.autoReset b).free } := by
  have h : ∃ x0 x1 x2 x3 x4 x5 x6 x7 x8 x9 x10 x11 x12 x13 x14 x15 x16 x17, s.autoReset b = { s with dev := x0, jobSt := x1, job := x2, cores := x3, hbm := x4, host := x5, cast := x6, net := x7, duo := x8, aud := x9, mqt := x10, rcv := x11, drn := x12, evt := x13, ring := x14, msix := x15, sent := x16, free := x17 } := by
    unfold State.autoReset
    try simp only []
    (repeat' split) <;>
    (try rw [trigger_eq]) <;>
    exact ⟨_, _, _, _, _, _, _, _, _, _, _, _, _, _, _, _, _, _, rfl⟩
  obtain ⟨_, _, _, _, _, _, _, _, _, _, _, _, _, _, _, _, _, _, h⟩ := h
  rw [h]

/-- A fault is found at a command (R201). -/
theorem stopAt_eq (s : State) (i c : Nat) :
    s.stopAt i c = { s with job := (s.stopAt i c).job, ring := (s.stopAt i c).ring } := by
  have h : ∃ x0 x1, s.stopAt i c = { s with job := x0, ring := x1 } := by
    unfold State.stopAt
    try simp only []
    (repeat' split) <;>
    (try rw [noteFault_eq]) <;>
    exact ⟨_, _, rfl⟩
  obtain ⟨_, _, h⟩ := h
  rw [h]

/-- The job stops when this beat's events are done. -/
theorem killAt_eq (s : State) (i c : Nat) (b : Bool) :
    s.killAt i c b = { s with job := (s.killAt i c b).job, ring := (s.killAt i c b).ring } := by
  have h : ∃ x0 x1, s.killAt i c b = { s with job := x0, ring := x1 } := by
    unfold State.killAt
    try simp only []
    (repeat' split) <;>
    (try rw [noteFault_eq]) <;>
    exact ⟨_, _, rfl⟩
  obtain ⟨_, _, h⟩ := h
  rw [h]

/-- The code of an abort (R223). -/
theorem abortCode_eq (s : State) :
    s.abortCode = { s with ring := (s.abortCode).ring } := by
  have h : ∃ x0, s.abortCode = { s with ring := x0 } := by
    unfold State.abortCode
    try simp only []
    (repeat' split) <;>
    exact ⟨_, rfl⟩
  obtain ⟨_, h⟩ := h
  rw [h]

/-- What waited for a copy lands (R150). -/
theorem landAll_eq (s : State) :
    s.landAll = { s with cores := (s.landAll).cores, hbm := (s.landAll).hbm, badLines := (s.landAll).badLines, host := (s.landAll).host, net := (s.landAll).net, mqt := (s.landAll).mqt, sent := (s.landAll).sent } := by
  have h : ∃ x0 x1 x2 x3 x4 x5 x6, s.landAll = { s with cores := x0, hbm := x1, badLines := x2, host := x3, net := x4, mqt := x5, sent := x6 } := by
    unfold State.landAll
    try simp only []
    (repeat' split) <;>
    (try rw [stores_eq]) <;>
    exact ⟨_, _, _, _, _, _, _, rfl⟩
  obtain ⟨_, _, _, _, _, _, _, h⟩ := h
  rw [h]

/-- An epoch ends in failure (R398). -/
theorem epochFail_eq (s : State) (r : Nat) :
    s.epochFail r = { s with cores := (s.epochFail r).cores, hbm := (s.epochFail r).hbm, badLines := (s.epochFail r).badLines, host := (s.epochFail r).host, wp := (s.epochFail r).wp, net := (s.epochFail r).net, mqt := (s.epochFail r).mqt, evt := (s.epochFail r).evt, msix := (s.epochFail r).msix, sent := (s.epochFail r).sent } := by
  have h : ∃ x0 x1 x2 x3 x4 x5 x6 x7 x8 x9, s.epochFail r = { s with cores := x0, hbm := x1, badLines := x2, host := x3, wp := x4, net := x5, mqt := x6, evt := x7, msix := x8, sent := x9 } := by
    unfold State.epochFail
    try simp only []
    (repeat' split) <;>
    (try rw [irq_eq]) <;>
    (try rw [ev_eq]) <;>
    (try rw [landAll_eq]) <;>
    exact ⟨_, _, _, _, _, _, _, _, _, _, rfl⟩
  obtain ⟨_, _, _, _, _, _, _, _, _, _, h⟩ := h
  rw [h]

/-- A job is aborted (R222). -/
theorem abortJob_eq (s : State) :
    s.abortJob = { s with jobSt := (s.abortJob).jobSt, job := (s.abortJob).job, cores := (s.abortJob).cores, hbm := (s.abortJob).hbm, badLines := (s.abortJob).badLines, host := (s.abortJob).host, wp := (s.abortJob).wp, cast := (s.abortJob).cast, net := (s.abortJob).net, aud := (s.abortJob).aud, mqt := (s.abortJob).mqt, rcv := (s.abortJob).rcv, drn := (s.abortJob).drn, evt := (s.abortJob).evt, ring := (s.abortJob).ring, msix := (s.abortJob).msix, sent := (s.abortJob).sent, free := (s.abortJob).free } := by
  have h : ∃ x0 x1 x2 x3 x4 x5 x6 x7 x8 x9 x10 x11 x12 x13 x14 x15 x16 x17, s.abortJob = { s with jobSt := x0, job := x1, cores := x2, hbm := x3, badLines := x4, host := x5, wp := x6, cast := x7, net := x8, aud := x9, mqt := x10, rcv := x11, drn := x12, evt := x13, ring := x14, msix := x15, sent := x16, free := x17 } := by
    unfold State.abortJob
    try simp only []
    (repeat' split) <;>
    (try rw [endLoad_eq]) <;>
    (try rw [faultNow_eq]) <;>
    (try rw [epochFail_eq]) <;>
    (try rw [abortCode_eq]) <;>
    (try rw [ev_eq]) <;>
    exact ⟨_, _, _, _, _, _, _, _, _, _, _, _, _, _, _, _, _, _, rfl⟩
  obtain ⟨_, _, _, _, _, _, _, _, _, _, _, _, _, _, _, _, _, _, h⟩ := h
  rw [h]

/-- Alignment with its failed attempts (R464). -/
theorem alignTries_eq (k : Nat) (fs : List (Nat × Nat)) (s : State) :
    State.alignTries k fs s = { s with dev := (State.alignTries k fs s).dev, jobSt := (State.alignTries k fs s).jobSt, job := (State.alignTries k fs s).job, cores := (State.alignTries k fs s).cores, hbm := (State.alignTries k fs s).hbm, host := (State.alignTries k fs s).host, cast := (State.alignTries k fs s).cast, net := (State.alignTries k fs s).net, ptp := (State.alignTries k fs s).ptp, aud := (State.alignTries k fs s).aud, mqt := (State.alignTries k fs s).mqt, rcv := (State.alignTries k fs s).rcv, drn := (State.alignTries k fs s).drn, evt := (State.alignTries k fs s).evt, ring := (State.alignTries k fs s).ring, msix := (State.alignTries k fs s).msix, clk := (State.alignTries k fs s).clk, sent := (State.alignTries k fs s).sent, free := (State.alignTries k fs s).free } := by
  have h : ∃ x0 x1 x2 x3 x4 x5 x6 x7 x8 x9 x10 x11 x12 x13 x14 x15 x16 x17 x18, State.alignTries k fs s = { s with dev := x0, jobSt := x1, job := x2, cores := x3, hbm := x4, host := x5, cast := x6, net := x7, ptp := x8, aud := x9, mqt := x10, rcv := x11, drn := x12, evt := x13, ring := x14, msix := x15, clk := x16, sent := x17, free := x18 } := by
    induction fs generalizing k s with
    | nil => unfold State.alignTries; exact ⟨_, _, _, _, _, _, _, _, _, _, _, _, _, _, _, _, _, _, _, rfl⟩
    | cons x r ih =>
      obtain ⟨d, l⟩ := x
      unfold State.alignTries
      simp only []
      split
      · rw [fail_eq, ev_eq, ev_eq]; exact ⟨_, _, _, _, _, _, _, _, _, _, _, _, _, _, _, _, _, _, _, rfl⟩
      · obtain ⟨_, _, _, _, _, _, _, _, _, _, _, _, _, _, _, _, _, _, _, h⟩ := ih (k + 1) (s.ev 0x2060 (k + 1) (d * 256 + l))
        rw [h, ev_eq]; exact ⟨_, _, _, _, _, _, _, _, _, _, _, _, _, _, _, _, _, _, _, rfl⟩
  obtain ⟨_, _, _, _, _, _, _, _, _, _, _, _, _, _, _, _, _, _, _, h⟩ := h
  rw [h]

/-- Alignment (R464, R465). -/
theorem align_eq (s : State) (fs : List (Nat × Nat)) :
    s.align fs = { s with dev := (s.align fs).dev, jobSt := (s.align fs).jobSt, job := (s.align fs).job, cores := (s.align fs).cores, hbm := (s.align fs).hbm, host := (s.align fs).host, cast := (s.align fs).cast, net := (s.align fs).net, ptp := (s.align fs).ptp, aud := (s.align fs).aud, mqt := (s.align fs).mqt, rcv := (s.align fs).rcv, drn := (s.align fs).drn, evt := (s.align fs).evt, ring := (s.align fs).ring, msix := (s.align fs).msix, clk := (s.align fs).clk, sent := (s.align fs).sent, free := (s.align fs).free } := by
  have h : ∃ x0 x1 x2 x3 x4 x5 x6 x7 x8 x9 x10 x11 x12 x13 x14 x15 x16 x17 x18, s.align fs = { s with dev := x0, jobSt := x1, job := x2, cores := x3, hbm := x4, host := x5, cast := x6, net := x7, ptp := x8, aud := x9, mqt := x10, rcv := x11, drn := x12, evt := x13, ring := x14, msix := x15, clk := x16, sent := x17, free := x18 } := by
    unfold State.align
    try simp only []
    (repeat' split) <;>
    (try rw [alignTries_eq]) <;>
    exact ⟨_, _, _, _, _, _, _, _, _, _, _, _, _, _, _, _, _, _, _, rfl⟩
  obtain ⟨_, _, _, _, _, _, _, _, _, _, _, _, _, _, _, _, _, _, _, h⟩ := h
  rw [h]

/-- A hold of cause 0x7 begins (R383). -/
theorem bellowsHold_eq (s : State) :
    s.bellowsHold = { s with jobSt := (s.bellowsHold).jobSt, job := (s.bellowsHold).job, cores := (s.bellowsHold).cores, ptp := (s.bellowsHold).ptp, rcv := (s.bellowsHold).rcv, drn := (s.bellowsHold).drn, evt := (s.bellowsHold).evt, msix := (s.bellowsHold).msix, pwr := (s.bellowsHold).pwr, sent := (s.bellowsHold).sent } := by
  have h : ∃ x0 x1 x2 x3 x4 x5 x6 x7 x8 x9, s.bellowsHold = { s with jobSt := x0, job := x1, cores := x2, ptp := x3, rcv := x4, drn := x5, evt := x6, msix := x7, pwr := x8, sent := x9 } := by
    unfold State.bellowsHold
    try simp only []
    (repeat' split) <;>
    (try rw [enterHold_eq]) <;>
    exact ⟨_, _, _, _, _, _, _, _, _, _, rfl⟩
  obtain ⟨_, _, _, _, _, _, _, _, _, _, h⟩ := h
  rw [h]

/-- The clocks stop at a grid edge (R466). -/
theorem toGrid_eq (s : State) :
    s.toGrid = { s with job := (s.toGrid).job, ptp := (s.toGrid).ptp, rcv := (s.toGrid).rcv, drn := (s.toGrid).drn, evt := (s.toGrid).evt, msix := (s.toGrid).msix, pwr := (s.toGrid).pwr, sent := (s.toGrid).sent, free := (s.toGrid).free } := by
  have h : ∃ x0 x1 x2 x3 x4 x5 x6 x7 x8, s.toGrid = { s with job := x0, ptp := x1, rcv := x2, drn := x3, evt := x4, msix := x5, pwr := x6, sent := x7, free := x8 } := by
    unfold State.toGrid State.nat
    simp only []
    split
    · rw [passHeld_eq]; exact ⟨_, _, _, _, _, _, _, _, _, rfl⟩
    · exact ⟨_, _, _, _, _, _, _, _, _, rfl⟩
  obtain ⟨_, _, _, _, _, _, _, _, _, h⟩ := h
  rw [h]

/-- The clock itself goes down a step (R382). -/
theorem stepClock_eq (s : State) (c : Nat) :
    s.stepClock c = { s with dev := (s.stepClock c).dev, jobSt := (s.stepClock c).jobSt, job := (s.stepClock c).job, cores := (s.stepClock c).cores, hbm := (s.stepClock c).hbm, host := (s.stepClock c).host, cast := (s.stepClock c).cast, net := (s.stepClock c).net, aud := (s.stepClock c).aud, mqt := (s.stepClock c).mqt, rcv := (s.stepClock c).rcv, drn := (s.stepClock c).drn, evt := (s.stepClock c).evt, ring := (s.stepClock c).ring, msix := (s.stepClock c).msix, pwr := (s.stepClock c).pwr, clk := (s.stepClock c).clk, sent := (s.stepClock c).sent, free := (s.stepClock c).free } := by
  have h : ∃ x0 x1 x2 x3 x4 x5 x6 x7 x8 x9 x10 x11 x12 x13 x14 x15 x16 x17 x18, s.stepClock c = { s with dev := x0, jobSt := x1, job := x2, cores := x3, hbm := x4, host := x5, cast := x6, net := x7, aud := x8, mqt := x9, rcv := x10, drn := x11, evt := x12, ring := x13, msix := x14, pwr := x15, clk := x16, sent := x17, free := x18 } := by
    unfold State.stepClock
    split
    · rw [fail_eq, event_eq]; exact ⟨_, _, _, _, _, _, _, _, _, _, _, _, _, _, _, _, _, _, _, rfl⟩
    · unfold State.moveRail; simp only []; rw [ev_eq]; exact ⟨_, _, _, _, _, _, _, _, _, _, _, _, _, _, _, _, _, _, _, rfl⟩
  obtain ⟨_, _, _, _, _, _, _, _, _, _, _, _, _, _, _, _, _, _, _, h⟩ := h
  rw [h]

/-- The clock goes down a step (R382, R466). -/
theorem lowerClock_eq (s : State) (c : Nat) :
    s.lowerClock c = { s with dev := (s.lowerClock c).dev, jobSt := (s.lowerClock c).jobSt, job := (s.lowerClock c).job, cores := (s.lowerClock c).cores, hbm := (s.lowerClock c).hbm, host := (s.lowerClock c).host, cast := (s.lowerClock c).cast, net := (s.lowerClock c).net, ptp := (s.lowerClock c).ptp, aud := (s.lowerClock c).aud, mqt := (s.lowerClock c).mqt, rcv := (s.lowerClock c).rcv, drn := (s.lowerClock c).drn, evt := (s.lowerClock c).evt, ring := (s.lowerClock c).ring, msix := (s.lowerClock c).msix, pwr := (s.lowerClock c).pwr, clk := (s.lowerClock c).clk, sent := (s.lowerClock c).sent, free := (s.lowerClock c).free } := by
  have h : ∃ x0 x1 x2 x3 x4 x5 x6 x7 x8 x9 x10 x11 x12 x13 x14 x15 x16 x17 x18 x19, s.lowerClock c = { s with dev := x0, jobSt := x1, job := x2, cores := x3, hbm := x4, host := x5, cast := x6, net := x7, ptp := x8, aud := x9, mqt := x10, rcv := x11, drn := x12, evt := x13, ring := x14, msix := x15, pwr := x16, clk := x17, sent := x18, free := x19 } := by
    unfold State.lowerClock State.drawFails
    split
    · rw [stepClock_eq]; exact ⟨_, _, _, _, _, _, _, _, _, _, _, _, _, _, _, _, _, _, _, _, rfl⟩
    · have h1 : ∀ (t : State), ∃ x0 x1 x2 x3 x4 x5 x6 x7 x8 x9, t.bellowsHold = { t with jobSt := x0, job := x1, cores := x2, ptp := x3, rcv := x4, drn := x5, evt := x6, msix := x7, pwr := x8, sent := x9 } := fun t => ⟨_, _, _, _, _, _, _, _, _, _, bellowsHold_eq t⟩
      have h2 : ∀ (t : State), ∃ x0 x1 x2 x3 x4 x5 x6 x7 x8, t.toGrid = { t with job := x0, ptp := x1, rcv := x2, drn := x3, evt := x4, msix := x5, pwr := x6, sent := x7, free := x8 } := fun t => ⟨_, _, _, _, _, _, _, _, _, toGrid_eq t⟩
      have h3 : ∀ (t : State), ∃ x0 x1 x2 x3 x4 x5 x6 x7 x8 x9 x10 x11 x12 x13 x14 x15 x16 x17 x18, t.stepClock c = { t with dev := x0, jobSt := x1, job := x2, cores := x3, hbm := x4, host := x5, cast := x6, net := x7, aud := x8, mqt := x9, rcv := x10, drn := x11, evt := x12, ring := x13, msix := x14, pwr := x15, clk := x16, sent := x17, free := x18 } := fun t => ⟨_, _, _, _, _, _, _, _, _, _, _, _, _, _, _, _, _, _, _, stepClock_eq t c⟩
      obtain ⟨_, _, _, _, _, _, _, _, _, _, k⟩ := h1 _
      rw [k]
      obtain ⟨_, _, _, _, _, _, _, _, _, k⟩ := h2 _
      rw [k]
      obtain ⟨_, _, _, _, _, _, _, _, _, _, _, _, _, _, _, _, _, _, _, k⟩ := h3 _
      rw [k]
      simp only []
      rw [align_eq]; exact ⟨_, _, _, _, _, _, _, _, _, _, _, _, _, _, _, _, _, _, _, _, rfl⟩
  obtain ⟨_, _, _, _, _, _, _, _, _, _, _, _, _, _, _, _, _, _, _, _, h⟩ := h
  rw [h]

/-- A charge against the module (R379). -/
theorem chargeModule_eq (s : State) (c : Nat) :
    s.chargeModule c = { s with aud := (s.chargeModule c).aud, evt := (s.chargeModule c).evt, msix := (s.chargeModule c).msix, pln := (s.chargeModule c).pln, sent := (s.chargeModule c).sent } := by
  have h : ∃ x0 x1 x2 x3 x4, s.chargeModule c = { s with aud := x0, evt := x1, msix := x2, pln := x3, sent := x4 } := by
    unfold State.chargeModule
    simp only []
    rw [ev_eq]; exact ⟨_, _, _, _, _, rfl⟩
  obtain ⟨_, _, _, _, _, h⟩ := h
  rw [h]

/-- An acknowledgement goes out (R328). -/
theorem ackTo_eq (s : State) (r : Nat) :
    s.ackTo r = { s with net := (s.ackTo r).net } := by
  have h : ∃ x0, s.ackTo r = { s with net := x0 } := by
    unfold State.ackTo
    try simp only []
    (repeat' split) <;>
    (try rw [emit_eq]) <;>
    exact ⟨_, rfl⟩
  obtain ⟨_, h⟩ := h
  rw [h]

/-- Packets are taken in their flow (R328). -/
theorem noted_eq (s : State) (r : Nat) (l : List Word) :
    s.noted r l = { s with net := (s.noted r l).net } := by
  have h : ∃ x0, s.noted r l = { s with net := x0 } := by
    unfold State.noted
    try simp only []
    (repeat' split) <;>
    (try rw [ackTo_eq]) <;>
    exact ⟨_, rfl⟩
  obtain ⟨_, h⟩ := h
  rw [h]

/-- A packet is taken in its flow (R328). -/
theorem received_eq (s : State) (p : Packet) :
    s.received p = { s with net := (s.received p).net } := by
  have h : ∃ x0, s.received p = { s with net := x0 } := by
    unfold State.received
    try simp only []
    (repeat' split) <;>
    (try rw [noted_eq]) <;>
    exact ⟨_, rfl⟩
  obtain ⟨_, h⟩ := h
  rw [h]

/-- A repetition is dropped (R327). -/
theorem dropDup_eq (s : State) :
    s.dropDup = { s with net := (s.dropDup).net } := by
  have h : ∃ x0, s.dropDup = { s with net := x0 } := by
    unfold State.dropDup
    try simp only []
    (repeat' split) <;>
    exact ⟨_, rfl⟩
  obtain ⟨_, h⟩ := h
  rw [h]

/-- Two copies differ (R327). -/
theorem copiesDiffer_eq (s : State) (p : Packet) :
    s.copiesDiffer p = { s with evt := (s.copiesDiffer p).evt, msix := (s.copiesDiffer p).msix, sent := (s.copiesDiffer p).sent } := by
  have h : ∃ x0 x1 x2, s.copiesDiffer p = { s with evt := x0, msix := x1, sent := x2 } := by
    unfold State.copiesDiffer
    try simp only []
    (repeat' split) <;>
    (try rw [ev_eq]) <;>
    exact ⟨_, _, _, rfl⟩
  obtain ⟨_, _, _, h⟩ := h
  rw [h]

/-- BUSY goes out (R330). -/
theorem answerBusy_eq (s : State) (p : Packet) :
    s.answerBusy p = { s with net := (s.answerBusy p).net } := by
  have h : ∃ x0, s.answerBusy p = { s with net := x0 } := by
    unfold State.answerBusy
    try simp only []
    (repeat' split) <;>
    (try rw [emit_eq]) <;>
    exact ⟨_, rfl⟩
  obtain ⟨_, h⟩ := h
  rw [h]

/-- A peer changes its state (R342). -/
theorem peerTo_eq (s : State) (r : Nat) (p : PeerSt) (c a : Nat) :
    s.peerTo r p c a = { s with net := (s.peerTo r p c a).net, evt := (s.peerTo r p c a).evt, msix := (s.peerTo r p c a).msix, sent := (s.peerTo r p c a).sent } := by
  have h : ∃ x0 x1 x2 x3, s.peerTo r p c a = { s with net := x0, evt := x1, msix := x2, sent := x3 } := by
    unfold State.peerTo
    try simp only []
    (repeat' split) <;>
    (try rw [ev_eq]) <;>
    exact ⟨_, _, _, _, rfl⟩
  obtain ⟨_, _, _, _, h⟩ := h
  rw [h]

/-- A packet goes out again (R328). -/
theorem retransmit_eq (s : State) (r : Nat) (p : Word) :
    s.retransmit r p = { s with net := (s.retransmit r p).net, evt := (s.retransmit r p).evt, msix := (s.retransmit r p).msix, sent := (s.retransmit r p).sent } := by
  have h : ∃ x0 x1 x2 x3, s.retransmit r p = { s with net := x0, evt := x1, msix := x2, sent := x3 } := by
    have h1 : ∀ (t : State), (∃ x0, t = { s with net := x0 }) → ∃ x0, t.flush r = { s with net := x0 } := by
      rintro t ⟨_, rfl⟩; rw [flush_eq]; exact ⟨_, rfl⟩
    have h2 : ∀ (b : Bool) (n : Nat) (g : Peer → Peer) (t : State), (∃ x0, t = { s with net := x0 }) → ∃ x0 x1 x2 x3,
        (if b then ({ t with net := { t.net with peers := t.net.peers.map g } } : State).ev 0x6010 r n else t) =
          { s with net := x0, evt := x1, msix := x2, sent := x3 } := by
      rintro b n g t ⟨_, rfl⟩
      split
      · rw [ev_eq]; exact ⟨_, _, _, _, rfl⟩
      · exact ⟨_, _, _, _, rfl⟩
    unfold State.retransmit
    simp only []
    split
    · split
      · obtain ⟨_, k⟩ := h1 _ ⟨_, rfl⟩
        rw [k]; exact ⟨_, _, _, _, rfl⟩
      · exact ⟨_, _, _, _, rfl⟩
    · exact h2 _ _ _ _ (h1 _ ⟨_, rfl⟩)
  obtain ⟨_, _, _, _, h⟩ := h
  rw [h]

end State

end Sys2Proof.Machine
end

