-- ==== Sys2Proof/Laws/Run.lean ====
section
/-! SUPPORT. How a job with one outstanding command runs: beats pass without a hold, the command is planned at its beat,
and with no interlock it is tried there. -/
namespace Sys2Proof.Machine

/-! ### Beats without commands in flight -/

/-- Between two states only time, credit and the counters of time differ. -/
def OnlyTime (s t : State) : Prop :=
  t = { s with
    pwr := { s.pwr with credit := t.pwr.credit, sumD := t.pwr.sumD, ivCyc := t.pwr.ivCyc, eslope := t.pwr.eslope }
    drn := { s.drn with beat := t.drn.beat, cyc := t.drn.cyc }
    ptp := t.ptp
    rcv := { s.rcv with sliceNs := t.rcv.sliceNs, hang := t.rcv.hang } }

theorem OnlyTime.refl (s : State) : OnlyTime s s := rfl

theorem OnlyTime.trans {s t u : State} (h : OnlyTime s t) (k : OnlyTime t u) : OnlyTime s u := by
  unfold OnlyTime at *
  rw [k, h]

theorem OnlyTime.plainBeats (s : State) (n : Nat) : OnlyTime s (s.plainBeats n) := rfl

/-- A stretch within one slope interval touches credit, activity and ceiling alone. -/
theorem part_eq (p : Pwr) (m x d n : Nat) :
    p.part m x d n = { p with
      credit := (p.part m x d n).credit, sumD := (p.part m x d n).sumD, ivCyc := (p.part m x d n).ivCyc, eslope := (p.part m x d n).eslope } := by
  unfold Pwr.part Pwr.slopeEnd
  simp only []
  split <;> rfl

theorem spend_eq (p : Pwr) (m x d n : Nat) :
    p.spend m x d n = { p with
      credit := (p.spend m x d n).credit, sumD := (p.spend m x d n).sumD, ivCyc := (p.spend m x d n).ivCyc, eslope := (p.spend m x d n).eslope } := by
  unfold Pwr.spend
  simp only []
  rw [part_eq (p.part m x d _), part_eq p]

theorem OnlyTime.covered (s : State) (d n : Nat) : OnlyTime s (s.covered d n) := by
  unfold OnlyTime State.covered
  rw [spend_eq]
  rfl

/-- Beats without demand pass without a hold. -/
theorem OnlyTime.meter (s : State) (n : Nat) : OnlyTime s (s.meter 0 n) ∧ (s.meter 0 n).drn.beat = s.drn.beat + n := by
  unfold State.meter
  simp only [Nat.mul_zero, Nat.zero_le, if_true]
  split
  · rename_i h; subst h; exact ⟨rfl, rfl⟩
  · split
    · rename_i h
      refine ⟨.covered s 0 _, ?_⟩
      show s.drn.beat + min n (max 1 (s.clk.mhz - s.pwr.ivCyc)) = _
      rw [← h]
    · refine ⟨.trans (.covered s 0 _) (.covered _ 0 _), ?_⟩
      show s.drn.beat + min n (max 1 (s.clk.mhz - s.pwr.ivCyc)) + (n - min n (max 1 (s.clk.mhz - s.pwr.ivCyc))) = _
      omega

/-- Stretches without demand end at their beat. -/
theorem stretches_idle (b fuel : Nat) (s : State) :
    OnlyTime s (State.stretches [] b (fuel + 1) s) ∧ (State.stretches [] b (fuel + 1) s).drn.beat = max s.drn.beat b := by
  induction fuel generalizing s with
  | zero =>
    simp only [State.stretches]
    split
    · exact ⟨.refl s, by omega⟩
    · simp only [demandAt, nextEdge, List.foldl_nil]
      obtain ⟨h, hd⟩ := OnlyTime.meter s (b - s.drn.beat)
      exact ⟨h, by rw [hd]; omega⟩
  | succ fuel ih =>
    rw [State.stretches]
    simp only
    split
    · exact ⟨.refl s, by omega⟩
    · simp only [demandAt, nextEdge, List.foldl_nil]
      obtain ⟨h, hd⟩ := OnlyTime.meter s (b - s.drn.beat)
      obtain ⟨k1, k2⟩ := ih (s.meter 0 (b - s.drn.beat))
      exact ⟨h.trans k1, by rw [k2, hd]; omega⟩

/-- Without a command in flight no beat is withheld: only time passes. -/
theorem passBeats_idle {s : State} (h : s.job.flights = []) (b : Nat) :
    OnlyTime s (s.passBeats b) ∧ (s.passBeats b).drn.beat = max s.drn.beat b := by
  unfold State.passBeats
  split
  · exact ⟨.refl s, by omega⟩
  · simp only [h, List.flatMap_nil, State.countWaits, List.foldl_nil, List.length_nil, Nat.mul_zero, Nat.zero_add]
    exact stretches_idle b 1 s

/-- A beat that has come is passed at once. -/
theorem passBeats_past {s : State} {b : Nat} (h : b ≤ s.drn.beat) : s.passBeats b = s := by
  unfold State.passBeats; simp [h]

/-! ### Planning -/

variable {s : State} {d : Disp}

theorem dueState_time (h : s.Alone d) : OnlyTime s (s.dueState d) := (passBeats_idle h.2.2.2.1 _).1

theorem dueState_job (h : s.Alone d) : (s.dueState d).job = s.job := by rw [dueState_time h]

theorem dueState_beat (h : s.Alone d) : (s.dueState d).drn.beat = s.plannedOf d := by
  have := (passBeats_idle h.2.2.2.1 (s.plannedOf d)).2
  have hb := h.2.2.2.2.2.1
  show (s.passBeats _).drn.beat = _
  omega

theorem dueState_plannedOf (h : s.Alone d) : (s.dueState d).plannedOf d = s.plannedOf d := by
  unfold State.plannedOf; rw [dueState_job h]

/-- With nothing in flight and no boundary due, a command's checks do not depend on what another still does. -/
theorem settled_alone (h : s.Alone d) (i o : Nat) (c : Cmd) : (s.dueState d).settled i o c = true := by
  have hj := dueState_job h
  obtain ⟨⟨-, -, -, -, -, h5, -⟩, -, -, hf, -⟩ := h
  unfold State.settled State.mayTurn
  rw [hj, hf, h5]
  rfl

/-- A command that passes its checks waits to issue: what the machine would do ahead of it is not asked. -/
theorem planNow_alone (h : s.Alone d) (hc : (s.dueState d).planChk d (s.plannedOf d) = none) (look : Nat → State → State × Bool) :
    (s.dueState d).planNow look = (s.planState d, false) := by
  have hr : (s.dueState d).refresh look = (s.dueState d, false) := by
    unfold State.refresh; rw [dueState_job h, h.2.2.2.1]; rfl
  unfold State.planState State.planNow
  rw [dueState_job h, h.2.2.1]
  simp only [hr, dueState_plannedOf h, hc, settled_alone h, if_true, Bool.false_eq_true, if_false]

/-- At its planned beat a command that passes its checks waits to issue. -/
theorem planState_alone (h : s.Alone d) :
    s.planState d = { s.dueState d with job := { s.job with
      disp := [], since := s.job.since ++ [{ d with cmd := (s.dueState d).issuesAs d.cmd }], flights := [s.planFlight d]
      part := d.cmd.partAfter s.job.part, lastPlanned := s.plannedOf d, ending := ((s.dueState d).issuesAs d.cmd).isEnd } } := by
  unfold State.planState State.plan
  rw [dueState_job h, dueState_plannedOf h, h.2.2.2.1]
  rfl

@[simp] theorem planFlight_idx : (s.planFlight d).idx = d.idx := rfl
@[simp] theorem planFlight_issued : (s.planFlight d).issued = false := rfl
@[simp] theorem planFlight_planned : (s.planFlight d).planned = s.plannedOf d := rfl
@[simp] theorem planFlight_cmd : (s.planFlight d).cmd = (s.dueState d).issuesAs d.cmd := rfl

/-- With no window held nothing is shifted. -/
theorem leastShift_nil (ws : List Win) : leastShift [] [] ws = 0 := by
  unfold leastShift
  simp only [List.flatMap_nil, List.filter_cons]
  have : (List.flatMap (fun (_ : Win) => ([] : List Nat)) ws) = [] := by induction ws <;> simp_all
  rw [this]
  simp only [List.filter_nil]
  split <;> rename_i h
  · rfl
  · split at h
    · injection h with h1 h2; subst h1; subst h2; rfl
    · simp at h

/-- With no window held none waits. -/
theorem waitsOf_nil (ws : List Win) : waitsOf [] ws = 0 := by
  have h : ∀ w : Win, w.waits [] = 0 := by
    intro w
    unfold Win.waits
    induction w.banks with
    | nil => rfl
    | cons b r ih => simpa [Win.contended] using ih
  unfold waitsOf
  induction ws with
  | nil => rfl
  | cons w r ih => simpa [h] using ih

/-- Only where other moves stand before a command do its last lines wait for them. -/
theorem bankLoss_waits (t : State) (x : Flight) (n : Nat) : (t.bankLoss x n).rwait = 0 ∧ (t.bankLoss x n).wwait = 0 := by
  unfold State.bankLoss; split <;> exact ⟨rfl, rfl⟩

/-- A command alone in flight issues at its planned beat, if that has come, and completes after its latency and the beats
it loses to banks. -/
theorem place_alone {t : State} {x : Flight} (hf : t.job.flights = [x]) (hx : x.issued = false) (hb : t.drn.beat = x.planned) :
    t.place x = some (x.planned, x.planned + t.latency x.idx (x.core.getD 0) x.cmd +
      (t.bankLoss x (t.latency x.idx (x.core.getD 0) x.cmd)).total, t.bankLoss x (t.latency x.idx (x.core.getD 0) x.cmd)) := by
  have hbef : t.before x = [] := by unfold State.before; rw [hf]; simp
  have hw : t.waits x = [] := by
    unfold State.waits State.entryWait
    rw [hbef]
    simp only [List.filter_nil, List.getLast?_nil, List.flatMap_nil, List.append_nil]
    split <;> rfl
  have hh : t.heldFor x.idx = [] := by unfold State.heldFor; rw [hf]; simp [hx]
  have hp : t.heldBefore x.idx = [] := by unfold State.heldBefore; rw [hf]; simp
  obtain ⟨h1, h2⟩ := bankLoss_waits t x (t.latency x.idx (x.core.getD 0) x.cmd)
  unfold State.place
  rw [hw, hh, hp]
  simp only [readyBeat, leastShift_nil, waitsOf_nil, hb, Nat.max_self, Nat.add_zero, Option.map_some]
  have he : { t.bankLoss x (t.latency x.idx (x.core.getD 0) x.cmd) with rwait := 0, wwait := 0 } =
      t.bankLoss x (t.latency x.idx (x.core.getD 0) x.cmd) := by
    generalize t.bankLoss x (t.latency x.idx (x.core.getD 0) x.cmd) = l at h1 h2
    cases l; simp_all
  rw [he]

/-! ### The run of one command -/

theorem flight_alone {t : State} {x : Flight} (hf : t.job.flights = [x]) : t.flight x.idx = some x := by
  unfold State.flight; rw [hf]; simp

/-- Fields of the state in which a command waits. -/
theorem planState_fields (h : s.Alone d) :
    (s.planState d).jobSt = .running ∧ (s.planState d).dev = .up ∧ (s.planState d).img = s.img ∧
    (s.planState d).drn.beat = s.plannedOf d ∧ (s.planState d).pwr.phase = none ∧ (s.planState d).duo = s.duo ∧
    (s.planState d).clk = s.clk ∧ (s.planState d).job = { s.job with
      disp := [], since := s.job.since ++ [{ d with cmd := (s.dueState d).issuesAs d.cmd }], flights := [s.planFlight d]
      part := d.cmd.partAfter s.job.part, lastPlanned := s.plannedOf d, ending := ((s.dueState d).issuesAs d.cmd).isEnd } := by
  have ht := dueState_time h
  have hb := dueState_beat h
  rw [planState_alone h]
  obtain ⟨⟨h1, h2, -, -, -, -, -, -, h9, -, -, -⟩, -⟩ := h
  refine ⟨?_, ?_, ?_, hb, ?_, ?_, ?_, rfl⟩
  · show (s.dueState d).jobSt = _; rw [ht]; exact h1
  · show (s.dueState d).dev = _; rw [ht]; exact h2
  · show (s.dueState d).img = _; rw [ht]
  · show (s.dueState d).pwr.phase = _; rw [ht]; exact h9
  · show (s.dueState d).duo = _; rw [ht]
  · show (s.dueState d).clk = _; rw [ht]

/-- The machine run ahead to the issue of a command, with fuel `n`. -/
def lookFrom (n : Nat) (i : Nat) (t : State) : State × Bool :=
  (State.run (.issue i) n t, (State.run (.issue i) n t).aboutTo i)

/-- One round of the run, once its next event is known to lie at the limit or before it, and before any due point. -/
theorem run_event {g : Goal} {n : Nat} {t : State} {e : Due} (h1 : t.jobSt = .running) (h2 : t.dev = .up)
    (h0 : t.clk.stopped = false) (h3 : t.job.crPend = []) (h4 : t.nextDue = some e)
    (h5 : ∀ l, optMin (t.goalBeat g) t.beatLimit = some l → e.beat ≤ l) (h6 : g.stopsAt e.ev = false)
    (h7 : ∀ l, t.dueBeat g = some l → e.beat < l) :
    State.run g (n + 1) t =
      (let r := (t.passBeats e.beat).happen (lookFrom n) e.ev
       let u := r.1.followPhase t.job.phase
       if r.2 then u else State.run g n u) := by
  have e1 : ∀ l, optMin (t.goalBeat g) t.beatLimit = some l → ¬ l < e.beat := fun l h => by have := h5 l h; omega
  have e2 : ∀ l, t.dueBeat g = some l → ¬ l ≤ e.beat := fun l h => by have := h7 l h; omega
  rw [State.run]
  simp only [h0, h1, h2, h3, ne_eq, not_true, or_self, false_and, if_false, h4, h6, Bool.false_eq_true]
  cases ho : optMin (t.goalBeat g) t.beatLimit <;> cases hd : t.dueBeat g <;> simp only [ho, hd] at e1 e2 <;>
    simp [e1, e2] <;> rfl

/-- The run ends where its limit has come and no event lies at it. -/
theorem run_end {g : Goal} {n : Nat} {t : State} {l : Nat} (h4 : ∀ e, t.nextDue = some e → l < e.beat)
    (h5 : optMin (t.goalBeat g) t.beatLimit = some l) (h6 : l ≤ t.drn.beat) : State.run g (n + 1) t = t := by
  have hp : ∀ d, t.passBeats ((optMin (some l) d).getD 0) = t := by
    intro d
    refine passBeats_past ?_
    cases d with
    | none => exact h6
    | some m => show min l m ≤ _; omega
  rw [State.run]
  split
  · rfl
  · simp only [h5]
    split
    · have := hp (t.dueBeat g)
      cases ho : optMin (some l) (t.dueBeat g) with
      | none => rfl
      | some b => rw [ho] at this; exact this
    · rename_i e he
      have := h4 e he
      simp only [this, Bool.true_or, if_true, decide_true]
      exact hp _

/-- A Duo partner's boundary is not compared where there is no partner. -/
theorem duoDue_off (h : s.duoOn = false) : s.duoDue = false := by unfold State.duoDue; rw [h]; rfl

/-- What the machine may reach while the one decoded command has not been planned. -/
theorem nextDue_alone (h : s.Alone d) : s.nextDue = some ⟨s.plannedOf d, 5, d.idx, .plan⟩ := by
  obtain ⟨⟨h1, h2, -, h3, h4, h5, h6, h8, h9, h10, h11, -⟩, he, hd, hf, hb, hbt, hl⟩ := h
  unfold State.nextDue State.flightDues State.streamDue State.ownDues Job.stepWaits Job.open
  simp only [hf, h4, h5, h6, h9, hd, he, duoDue_off h10, List.filterMap_nil, List.any_nil, Option.isNone_none, Bool.not_false, Bool.and_self, Bool.not_true,
    Bool.or_self, Bool.false_eq_true, if_false, List.append_nil, List.nil_append, firstDue]
  rw [Nat.max_eq_left hbt]

theorem limit_alone (h : s.Alone d) {l : Nat}
    (hl : optMin (s.goalBeat (.planned d.idx)) s.beatLimit = some l) : s.plannedOf d ≤ l := by
  obtain ⟨⟨h1, h2, h0, h3, h4, h5, h6, h8, h9, h10, h11, -⟩, he, hd, hf, hb, hbt, hlp⟩ := h
  have hg : s.goalBeat (.planned d.idx) = none := by simp [State.goalBeat, hd]
  have hdl : s.duoLimit = none := by simp [State.duoLimit, h10, h11]
  rw [hg] at hl
  unfold State.beatLimit at hl
  rw [hdl] at hl
  have hp : s.plannedOf d = s.job.frame + d.cmd.hdr.off.toNat := rfl
  have hsl : s.streamLimit = none ∨ s.streamLimit = some (max s.job.lastPlanned (s.plannedOf d)) := by
    unfold State.streamLimit Job.stepWaits
    simp only [hf, hd, Job.open, h4, he, h8, knownBeat, hp]
    split
    · exact .inl rfl
    · exact .inr (by simp)
  rcases hsl with hsl | hsl <;> rw [hsl] at hl <;> simp [optMin] at hl <;> omega

/-- With nothing in flight no due point holds the run to a planned beat back. -/
theorem dueBeat_alone (h : s.Alone d) : s.dueBeat (.planned d.idx) = none := by
  have hf := h.2.2.2.1
  simp [State.dueBeat, State.flagLimit, State.landingLimit, hf, optMin]

/-- A job with one decoded command: it is planned, and tried at its beat. -/
theorem run_alone (h : s.Alone d) (hc : (s.dueState d).planChk d (s.plannedOf d) = none) (n : Nat) :
    State.run (.planned d.idx) (n + 2) s =
      (let v := s.planState d
       let x := s.planFlight d
       let r := v.issueNow x (s.plannedOf d) (s.endsAt d) (v.bankLoss x (s.latAt d))
       let u := (if r.2 then r.1 else r.1.enterExchange x).followPhase s.job.phase
       if r.2 then u else State.run (.planned d.idx) n u) := by
  obtain ⟨f1, f2, fi, f3, f4, f5, fk, f6⟩ := planState_fields h
  rw [run_event h.1.1 h.1.2.1 h.1.2.2.1 h.1.2.2.2.1 (nextDue_alone h) (fun l hl => limit_alone h hl) rfl
    (fun l hl => by rw [dueBeat_alone h] at hl; simp at hl)]
  have hplan : ((s.passBeats (s.plannedOf d)).happen (lookFrom (n + 1)) .plan) = (s.planState d, false) := by
    simp only [State.happen]
    exact planNow_alone h hc _
  simp only [hplan, Bool.false_eq_true, if_false]
  have hfp : (s.planState d).followPhase s.job.phase = s.planState d := by
    unfold State.followPhase; rw [f6]; simp
  rw [hfp]
  obtain ⟨⟨h1, h2, h0, h3, h4, h5, h6, h8, h9, h10, h11, -⟩, he, hd, hf, hb, hbt, hlp⟩ := h
  have hx : (s.planState d).job.flights = [s.planFlight d] := by rw [f6]
  have hpl := place_alone hx rfl (by rw [f3]; rfl)
  have hduo : (s.planState d).duoOn = false := by unfold State.duoOn State.cfg at *; rw [fi]; exact h10
  have hdue : (s.planState d).nextDue = some ⟨s.plannedOf d, 4, d.idx, .issue d.idx⟩ := by
    have hfd : (s.planState d).flightDues = [⟨s.plannedOf d, 4, d.idx, .issue d.idx⟩] := by
      unfold State.flightDues
      rw [hx]
      simp only [List.filterMap_cons, planFlight_issued, Bool.false_eq_true, if_false, hpl, Option.map_some, List.filterMap_nil,
        planFlight_idx, planFlight_planned, f3, Nat.max_self]
    have hsd : (s.planState d).streamDue = [] := by
      unfold State.streamDue
      rw [f6]
      simp only [h8]
      split <;> rfl
    have hod : (s.planState d).ownDues = [] := by
      unfold State.ownDues
      rw [f6, f4, duoDue_off hduo]
      simp [h6, h5, h4]
    unfold State.nextDue
    rw [hfd, hsd, hod]
    rfl
  have hlim : ∀ l, optMin ((s.planState d).goalBeat (.planned d.idx)) (s.planState d).beatLimit = some l → s.plannedOf d ≤ l := by
    intro l hl
    have hg : (s.planState d).goalBeat (.planned d.idx) = some (s.plannedOf d) := by
      have hfl := flight_alone hx
      simp only [planFlight_idx] at hfl
      simp only [State.goalBeat, hfl, f3, Option.map_some, planFlight_planned, Option.getD_some, Nat.max_self]
      rw [f6]; simp
    have hdl : (s.planState d).duoLimit = none := by simp [State.duoLimit, f5, h11, hduo]
    have hsl : (s.planState d).streamLimit = none ∨ (s.planState d).streamLimit = some (s.plannedOf d) := by
      unfold State.streamLimit Job.open
      rw [f6]
      simp only [List.any_nil, knownBeat, ite_self]
      split
      · exact .inl rfl
      · exact .inr rfl
    rw [hg] at hl
    unfold State.beatLimit at hl
    rw [hdl] at hl
    rcases hsl with hsl | hsl <;> rw [hsl] at hl <;> simp [optMin] at hl <;> omega
  have hdb : (s.planState d).dueBeat (.planned d.idx) = none := by
    unfold State.dueBeat State.flagLimit State.landingLimit
    rw [hx]
    have hlb : (s.planState d).landingBeat (s.planFlight d) = none := by unfold State.landingBeat; simp
    simp [optMin, hlb]
  have hcr : (s.planState d).job.crPend = [] := by rw [f6]; exact h3
  have hck : (s.planState d).clk.stopped = false := by rw [fk]; exact h0
  rw [run_event f1 f2 hck hcr hdue hlim rfl (fun l hl => by rw [hdb] at hl; simp at hl)]
  have hph : (s.planState d).job.phase = s.job.phase := by rw [f6]
  have hpass : (s.planState d).passBeats (s.plannedOf d) = s.planState d := passBeats_past (by omega)
  have hfl := flight_alone hx
  simp only [planFlight_idx] at hfl
  simp only [hpass, State.happen, hfl, hpl, hph, planFlight_idx, planFlight_planned]
  rfl

/-! ### Rows -/

/-- A stream's row runs its decoded command to its planned beat. -/
theorem exec_row {i : Instr} (h : s.Alone d) (hr : rowOf d.cmd = some i) :
    exec i s = .next (State.run (.planned d.idx) (s.duo.ptn.length + 13) s) := by
  obtain ⟨-, -, hd, hf, hb, -, -⟩ := h
  have hrun : s.runCmd d.cmd = State.run (.planned d.idx) (s.duo.ptn.length + 13) s := by
    have : s.enqueue d.cmd = some (d.idx, s) := by simp [State.enqueue, hd, hb]
    simp only [State.runCmd, this, State.runTo, State.runFuel, hd, hf, List.length_nil, List.length_singleton]
    congr 1; omega
  rw [← hrun]
  cases hc : d.cmd <;> rw [hc] at hr <;> simp only [rowOf] at hr
  case mute h2 p => cases p <;> simp only [Option.some.injEq] at hr <;> subst hr <;> rfl
  all_goals first | (simp only [Option.some.injEq] at hr; subst hr; rfl) | simp at hr

/-- Issuing alone: a boundary without a waiting pause, the checks passed, and nothing that holds the command back. -/
theorem issueNow_plain {v : State} {x : Flight} {i c : Nat} {b : Loss} (hf : v.job.flights = [x]) (hp : v.asked = false)
    (hs : v.job.stop = none) (hc : v.chkIssue x.idx (x.core.getD 0) x.cmd = none) (h1 : ∀ h, x.cmd ≠ .stepc h)
    (h2 : ∀ h, x.cmd ≠ .mute h false) (h3 : v.commitBad x = false) (h4 : v.issueBlocked x = false) :
    v.issueNow x i c b = ((v.noteBoundary i).goIssue x i c b, false) := by
  have hb : v.isBoundary x = true := by unfold State.isBoundary; rw [hf]; simp
  unfold State.issueNow
  simp only [hb, hp, Bool.and_false, Bool.false_eq_true, if_false, hc, h3]
  cases hx : x.cmd <;> simp_all [ite_self]

/-- Nothing more happens at the planned beat of a command that has issued and completes later. -/
theorem run_issued {w : State} {f : Flight} {n : Nat} (hf : w.job.flights = [f]) (hd : w.job.disp = []) (hi : f.issued = true)
    (hlt : w.drn.beat < f.compl) (hk : w.job.kill = none) (hb : w.job.bound = false) (hph : ∀ e, w.pwr.phase = some e → w.drn.beat < e.beat)
    (hs : w.job.stop = none) (ho : w.job.seg.over = none) (hpl : f.planned ≤ w.drn.beat) (hlp : w.drn.beat ≤ w.job.lastPlanned)
    (hdu : w.duoOn = false) (hpm : w.duo.pendMis = none) :
    State.run (.planned f.idx) (n + 1) w = w := by
  have hg : w.goalBeat (.planned f.idx) = some w.drn.beat := by
    have := flight_alone hf
    simp only [State.goalBeat, hd, this, List.any_nil, Bool.false_eq_true, if_false, Option.map_some, Option.getD_some]
    congr 1; omega
  have hlim : optMin (w.goalBeat (.planned f.idx)) w.beatLimit = some w.drn.beat := by
    have hdl : w.duoLimit = none := by simp [State.duoLimit, hdu, hpm]
    have hsl : w.streamLimit = none ∨ w.streamLimit = some w.job.lastPlanned := by
      unfold State.streamLimit
      simp only [hd, ho, List.any_nil, knownBeat, ite_self]
      split
      · exact .inl rfl
      · exact .inr rfl
    rw [hg]
    unfold State.beatLimit
    rw [hdl]
    rcases hsl with hsl | hsl <;> rw [hsl] <;> simp [optMin] <;> omega
  refine run_end (fun e he => ?_) hlim (Nat.le_refl _)
  have hfd : w.flightDues = [⟨f.compl, 0, f.idx, .retire f.idx⟩] := by unfold State.flightDues; rw [hf]; simp [hi]
  have hsd : w.streamDue = [] := by
    unfold State.streamDue
    simp only [hd, ho]
    split <;> rfl
  unfold State.nextDue State.ownDues at he
  rw [duoDue_off hdu] at he
  cases hp : w.pwr.phase with
  | none =>
    simp [hfd, hsd, hk, hb, hs, hp, firstDue] at he
    subst he; exact hlt
  | some q =>
    have hq := hph q hp
    simp only [hfd, hsd, hk, hb, hs, hp, List.append_nil, List.nil_append, Bool.false_eq_true, if_false, List.cons_append,
      firstDue] at he
    split at he <;> simp only [Option.some.injEq] at he <;> subst he
    · exact hlt
    · show w.drn.beat < max q.beat w.drn.beat
      omega

/-! ### One command issues -/

variable {i : Instr}

/-- What a decoded command issues in, when nothing holds it back. -/
def State.goneOut (s : State) (d : Disp) : State :=
  let x := s.planFlight d
  ((((s.planState d).noteBoundary (s.plannedOf d)).goIssue x (s.plannedOf d) (s.endsAt d) ((s.planState d).bankLoss x (s.latAt d))).enterExchange x).followPhase s.job.phase

theorem exec_alone (h : s.Alone d) (hp : s.Passes d) (hr : rowOf d.cmd = some i) (h1 : ∀ h, (s.planFlight d).cmd ≠ .stepc h)
    (h2 : ∀ h, (s.planFlight d).cmd ≠ .mute h false) (h3 : (s.planState d).commitBad (s.planFlight d) = false)
    (h4 : (s.planState d).issueBlocked (s.planFlight d) = false) :
    exec i s = .next (State.run (.planned d.idx) (s.duo.ptn.length + 11) (s.goneOut d)) := by
  obtain ⟨f1, f2, fi, f3, f4, f5, fk, f6⟩ := planState_fields h
  have hq : (s.planState d).asked = false := by
    have := hp.1
    unfold State.asked at *; rw [f6]; exact this
  have hst : (s.planState d).job.stop = none := by rw [f6]; exact h.1.2.2.2.2.1
  rw [exec_row h hr, run_alone h hp.2.1 (s.duo.ptn.length + 11)]
  have hi := issueNow_plain (i := s.plannedOf d) (c := s.endsAt d) (b := (s.planState d).bankLoss (s.planFlight d) (s.latAt d))
    (by rw [f6]) hq hst hp.2.2 h1 h2 h3 h4
  simp only [hi, Bool.false_eq_true, if_false]
  rfl
/-- With nothing kept to compare it with, an entry enters the journal alone. -/
theorem jAdd_fresh {t : State} (h : t.rcv.replayTo = none) (e : JEntry) :
    t.jAdd e = { t with job := { t.job with jrn := { t.job.jrn with entries := e :: t.job.jrn.entries } } } := by
  unfold State.jAdd State.checkKept
  simp only [h]

/-- The entry of a pass at its first command. -/
theorem notePass_fresh {t : State} (h : t.rcv.replayTo = none) (f : Flight) :
    ∃ es, t.notePass f = { t with job := { t.job with jrn := { t.job.jrn with entries := es ++ t.job.jrn.entries } } } := by
  unfold State.notePass
  split
  · exact ⟨[], rfl⟩
  · rw [jAdd_fresh h]; exact ⟨[_], rfl⟩

/-- The command of a state with one in flight is put there. -/
theorem setFlight_alone {t : State} {x f : Flight} (h : t.job.flights = [x]) (hi : f.idx = x.idx) :
    t.setFlight f = { t with job := { t.job with flights := [f] } } := by
  unfold State.setFlight; rw [h]; simp [hi]

theorem giveWay_alone {t : State} {f : Flight} (h : t.job.flights = [f]) : t.giveWay f.idx = t := by
  unfold State.giveWay
  have : giveWays t.drn.beat f.idx [] t.job.flights = t.job.flights := by
    rw [h]; simp [giveWays]
  rw [this]

theorem press_alone {t : State} {f : Flight} (h : t.job.flights = [f]) : t.press f = t := by
  unfold State.press
  rw [h]
  simp only [List.map_cons, Nat.lt_irrefl, decide_false, Bool.and_false, Bool.false_and, Bool.false_eq_true, if_false, List.map_nil]
  rw [← h]

/-- The command in flight after the issue of `d` alone. -/
def State.gone (s : State) (d : Disp) : Flight :=
  (((s.planState d).noteBoundary (s.plannedOf d))).launch (s.planFlight d) (s.plannedOf d) (s.endsAt d)
    ((s.planState d).bankLoss (s.planFlight d) (s.latAt d))

@[simp] theorem gone_idx : (s.gone d).idx = d.idx := rfl
@[simp] theorem gone_issued : (s.gone d).issued = true := rfl
@[simp] theorem gone_issue : (s.gone d).issue = s.plannedOf d := rfl
@[simp] theorem gone_compl : (s.gone d).compl = s.endsAt d := rfl
@[simp] theorem gone_cmd : (s.gone d).cmd = (s.dueState d).issuesAs d.cmd := rfl
@[simp] theorem gone_queue : (s.gone d).queue = ((s.dueState d).issuesAs d.cmd).queue := rfl
@[simp] theorem gone_planned : (s.gone d).planned = s.plannedOf d := rfl

/-- The state in which `d` alone has issued, before its control or transfer effects. -/
def State.goneState (s : State) (d : Disp) : State :=
  let v := (s.planState d).noteBoundary (s.plannedOf d)
  { v with job := { v.job with flights := [s.gone d], hi := max v.job.hi (d.idx + 1)
                               jrn := if d.idx = 0 then { v.job.jrn with stepDrone := s.plannedOf d, stepWall := v.ptp.wall } else v.job.jrn } }

theorem noteIssued_gone (h : s.Alone d) :
    (((((s.planState d).noteBoundary (s.plannedOf d)).setFlight (s.gone d)).press (s.gone d)).giveWay (s.gone d).idx).noteIssued (s.gone d) =
      s.goneState d := by
  obtain ⟨f1, f2, fi, f3, f4, f5, fk, f6⟩ := planState_fields h
  have hf : ((s.planState d).noteBoundary (s.plannedOf d)).job.flights = [s.planFlight d] := by
    show (s.planState d).job.flights = _; rw [f6]
  rw [setFlight_alone (f := s.gone d) hf rfl, press_alone rfl, giveWay_alone rfl]
  rfl

theorem goneOut_eq (h : s.Alone d) :
    s.goneOut d = (((match (s.gone d).queue with
      | .mvq => ((s.goneState d).notePass (s.gone d)).noteMove (s.gone d)
      | .ctl => if (s.gone d).cmd.isEnd then s.goneState d else ((s.goneState d).ctlIssue (s.gone d) (s.plannedOf d)).notePass (s.gone d)
      | _ => (s.goneState d).notePass (s.gone d)).enterExchange (s.planFlight d)).followPhase s.job.phase) := by
  unfold State.goneOut State.goIssue
  have := noteIssued_gone h
  simp only
  unfold State.gone at this ⊢
  rw [this]
  try rfl

/-- Fields of that state. -/
theorem goneState_time (h : s.Alone d) :
    s.goneState d = { s with pwr := (s.goneState d).pwr, drn := (s.goneState d).drn, ptp := (s.goneState d).ptp, rcv := (s.goneState d).rcv
                             job := (s.goneState d).job } := by
  have h1 := planState_alone h
  have h2 : OnlyTime s (s.dueState d) := dueState_time h
  unfold OnlyTime at h2
  unfold State.goneState State.noteBoundary
  rw [h1, h2]

theorem goneState_fields (h : s.Alone d) :
    (s.goneState d).drn.beat = s.plannedOf d ∧ (s.goneState d).pwr.phase = none ∧ (s.goneState d).rcv.replayTo = none ∧
    ∃ j : Jrn, j.entries = s.job.jrn.entries ∧ (s.goneState d).job = { s.job with disp := [], since := s.job.since ++ [{ d with cmd := (s.dueState d).issuesAs d.cmd }], flights := [s.gone d], part := d.cmd.partAfter s.job.part, lastPlanned := s.plannedOf d, ending := ((s.dueState d).issuesAs d.cmd).isEnd, hi := max s.job.hi (d.idx + 1), jrn := j } := by
  obtain ⟨f1, f2, fi, f3, f4, f5, fk, f6⟩ := planState_fields h
  have h2 : OnlyTime s (s.dueState d) := dueState_time h
  have hr : (s.planState d).rcv.replayTo = none := by
    rw [planState_alone h]
    show (s.dueState d).rcv.replayTo = none
    rw [h2]; exact h.1.2.2.2.2.2.2.2.2.2.2.2
  have hj : (s.goneState d).job = { (s.planState d).job with
      flights := [s.gone d], hi := max (s.planState d).job.hi (d.idx + 1)
      jrn := if d.idx = 0 then { (s.planState d).job.jrn with stepDrone := s.plannedOf d, stepWall := (s.planState d).ptp.wall } else (s.planState d).job.jrn } := rfl
  have hje : (s.goneState d).job.jrn.entries = (s.planState d).job.jrn.entries := by
    rw [hj]; simp only; split <;> rfl
  refine ⟨f3, f4, hr, (s.goneState d).job.jrn, by rw [hje, f6], ?_⟩
  rw [hj]
  simp only [f6]

/-- The state after the issue of `d` alone stands, where nothing else falls due before its completion. -/
theorem exec_gone (h : s.Alone d) (hp : s.Passes d) (hr : rowOf d.cmd = some i) (h1 : ∀ h, (s.planFlight d).cmd ≠ .stepc h)
    (h2 : ∀ h, (s.planFlight d).cmd ≠ .mute h false) (h3 : (s.planState d).commitBad (s.planFlight d) = false)
    (h4 : (s.planState d).issueBlocked (s.planFlight d) = false) {f : Flight} (hf : (s.goneOut d).job.flights = [f])
    (hg : f.idx = d.idx ∧ f.issued = true ∧ f.planned = s.plannedOf d ∧ s.plannedOf d < f.compl)
    (hj : (s.goneOut d).job.disp = [] ∧ (s.goneOut d).job.kill = none ∧ (s.goneOut d).job.bound = false ∧ (s.goneOut d).job.stop = none ∧
      (s.goneOut d).job.seg = s.job.seg ∧ (s.goneOut d).job.lastPlanned = s.plannedOf d)
    (hb : (s.goneOut d).drn.beat = s.plannedOf d) (hph : ∀ e, (s.goneOut d).pwr.phase = some e → s.plannedOf d < e.beat)
    (hdu : (s.goneOut d).duo = s.duo) (him : (s.goneOut d).img = s.img) : exec i s = .next (s.goneOut d) := by
  obtain ⟨g1, g2, g3, g4⟩ := hg
  obtain ⟨j1, j2, j3, j4, j5, j6⟩ := hj
  rw [exec_alone h hp hr h1 h2 h3 h4, ← g1]
  have hc := h.1
  rw [run_issued hf j1 g2 (by omega) j2 j3 (by rw [hb]; exact hph) j4 (by rw [j5]; exact hc.2.2.2.2.2.2.2.1) (by omega) (by omega)
    (by unfold State.duoOn State.cfg at *; rw [him]; exact hc.2.2.2.2.2.2.2.2.2.1) (by rw [hdu]; exact hc.2.2.2.2.2.2.2.2.2.2.1)]

/-- Flight and latency of a compute command. -/
theorem computes_queue {c : Cmd} (h : computes c = true) (t : State) : t.issuesAs c = c ∧ c.queue ≠ .ctl ∧ c.queue ≠ .mvq := by
  cases c <;> simp_all [computes, Cmd.queue, State.issuesAs]

end Sys2Proof.Machine
end

