-- ==== Sys2Proof/WellFormed.lean ====
section
/-! DEFINITION. Which commands are well formed: what a sender outside the device can have sent. The fields of the
device commands have their encoded widths in the syntax, and the checks of R215 are the machine's, which
raises their events; what is checked here is the shape of the data that the other commands carry. -/
namespace Sys2Proof

/-- A packet as the fabric delivers it (R326): LEN is the length of its body, at most 4,096 bytes. -/
def Packet.wf (p : Packet) : Bool := p.payload.length == p.len.toNat && decide (p.payload.length ≤ 4096)

/-- A fact of a checker: a residue-checked operation stands at a row or element and a column of its command (R84, R106); an exit sum
names a row or column of an array tile (R82), a word a core of the module, a line an address of HBM. -/
def CheckObs.wf : CheckObs → Bool
  | .residue o => decide (o.row < 2 ^ 40 ∧ o.col < 65536)
  | .rowExit i _ | .colExit i _ => decide (i < 128)
  | .sram core _ _ _ => decide (core < 192)
  | .hbm addr _ => decide (addr < 0xD800000000)

/-- A vote names a cause of R198. -/
def Vote.wf (v : Vote) : Bool := decide (v.cause.toNat < 12)

/-- Pages of a delivered page attribute image are pages of the module (R147). -/
def LoadInput.wf (i : LoadInput) : Bool := i.pat.all (fun e => decide (e.1 < 442368))

/-- Alignment failures and failed tests name a die of the module (R17, R464). -/
def ResetInput.wf (i : ResetInput) : Bool :=
  i.alignFails.all (fun f => decide (f.1 < 4)) && i.katCores.all (fun f => decide (f.1 < 192)) && i.katSpares.all (fun f => decide (f.1 < 4))

/-- A firmware payload's numbers have the widths of R482. -/
def FwPayload.wf (f : FwPayload) : Bool :=
  decide (f.version < 2 ^ 32 ∧ f.svn < 2 ^ 32 ∧ f.ecdsaKey < 16 ∧ f.lmsKey < 16 ∧ f.sigs.length ≤ 8288 ∧ f.body.length < 2 ^ 32)

/-- Copies name a flash device and a region (R473). -/
def BootInput.wf (i : BootInput) : Bool :=
  (i.badCopies ++ i.badWrites).all (fun c => decide (c.1 < 2 ∧ 1 ≤ c.2 ∧ c.2 ≤ 8)) && i.reset.wf

/-- A tick reads four dies and twelve stacks (R443), samples the input four times (R435) and has six counters of each die
(R434). -/
def TickReading.wf (r : TickReading) : Bool :=
  r.tdie.length == 4 && r.thbm.length == 12 && r.samples.length == 4 && r.act.length == 4 && r.act.all (fun l => l.length == 6)

/-- The payload and read request sizes that the endpoint supports (R498). -/
def LinkMode.wf (m : LinkMode) : Bool :=
  decide (m.payload ∈ [128, 256, 512]) && decide (m.readReq ∈ [128, 256, 512, 1024, 2048, 4096])

/-- What a command's data must look like for a sender to have sent it. -/
def Instr.wf : Instr → Bool
  | .commandCompletion obs => obs.all CheckObs.wf
  | .segmentDescriptorFetch d | .segmentDescriptorReread d => d.length == 64
  | .commandSegmentFetch d => d.length % 128 == 0
  | .holdBegin vs => !vs.isEmpty && vs.all Vote.wf
  | .chunkArrival _ _ d _ => decide (1 ≤ d.length ∧ d.length ≤ 65536)
  | .firstTouchCopy p | .drainPageComplete p => decide (p < 442368)
  | .jobLoadBegin d => d.length == 256
  | .jobLoadComplete i => i.wf
  | .epochFail r => decide (1 ≤ r ∧ r ≤ 6)
  | .computeReset i | .pwrTripClr _ i => i.wf
  | .dataPacketReceive x => x.pkt.wf && decide (x.fec.port < 4)
  | .ackPacketReceive p | .busyPacketReceive p | .flagPacketReceive p | .signalPacketReceive p
  | .keepaliveReceive p | .resyncReceive p | .duoPacketReceive p => p.wf
  | .congestionNotification p | .pfcPauseFrame p _ _ | .ethLinkUp p _ _ | .ethLinkDown p | .linkTrainingFail p _ => decide (p < 4)
  | .addressResolutionRequest p a => decide (p < 4) && (a.length == 4 || a.length == 16)
  | .hbmRefresh st _ => decide (st < 12)
  | .hbmPatrolScrub a _ => decide (a < 0xD800000000)
  | .bellowsTick r => r.wf
  | .patinaSample cs => decide (cs.length ≤ 192)
  | .pllLockLoss d fs => decide (d < 4) && (match fs with | some l => l.all (fun f => decide (f.1 < 4)) | none => true)
  | .relockTimeout d => decide (d < 4)
  | .powerOn i | .moduleRestart _ i => i.wf
  | .firmwareSlotWrite fw _ => fw.wf
  | .quoteRequest _ n _ _ => n.length == 32
  | .latchingRead r => decide (1 ≤ r.width) && decide (r.off + r.width ≤ 0x4000000)
  | .registerWrite off w _ => decide (off + w ≤ 0x4000000)
  | .msixUnmask v => decide (v < 7)
  | .pcieLinkTrained sp w m => decide (1 ≤ sp.toNat ∧ sp.toNat ≤ 6) && decide (w.toNat ∈ [1, 2, 4, 8, 16]) && m.wf
  | .bar2Resize n => decide (30 ≤ n ∧ n ≤ 39)
  | .ppsEdge e => decide (e.high ≤ e.period)
  | .ptpMessage m => decide (m.port < 4)
  | _ => true

end Sys2Proof
end

