-- ==== Sys2Proof/Tests/Slice0.lean ====
section
/-! SUPPORT. The model's own tests. For every obligation with hypotheses, states and operands that meet them, each clause at
its boundary; words of the stream's commands written out from their tables; commands that no sender can have sent. -/
open Sys2Proof Sys2Proof.Machine
namespace Sys2Proof.Tests
set_option Elab.async false

/-- The module up, its clocks running, with nothing loaded and a factory image. -/
def up : State := { State.reset with dev := .up, clk := { Clk.reset with stopped := false, aligned := true } }

/-- A state whose verdict registers are as after reset, with no retirement pending, is settled. -/
theorem settled_of {s : State} (h : s.aud = Aud.reset) (hp : s.remap.pend = []) : s.Settled := by
  refine ⟨fun g hg => ?_, hp⟩
  rw [h] at hg
  rw [List.eq_of_mem_replicate hg]
  exact ⟨rfl, rfl⟩

/-- A header on logical core `l` in slot 0, `off` beats after its frame's base. -/
def hd (l : Byte) (off : Word) : Hdr := ⟨l, 0, false, off, 0, 0xFFF⟩

/-- A decoded command of index 5. -/
def dcd (c : Cmd) : Disp := ⟨5, c, none, none, .desc false 0 0⟩

/-- A running job in part `p` of its stream with one decoded command; pages 101000 and 101001 are valid and
writable, and core 3 holds a program block of one instruction at 0x8000. -/
def alone (p : Part) (c : Cmd) : State :=
  { up with
    jobSt := .running
    pat := { Table.empty with cur := [(101000, 0xC000), (101001, 0xC000)] }
    cores := up.cores.set 3 { Core.reset with spd := Mem.setBytes [] 0x8000 [0x01, 0x40] }
    job := { Job.none with seg := .desc false 0 0, part := p, disp := [dcd c], next := 6 } }

/-- `d` is alone at its planned beat and passes its checks. -/
def issuable (p : Part) (c : Cmd) : Prop := (alone p c).Alone (dcd c) ∧ (alone p c).Passes (dcd c)

def tags1 : Tags := ⟨0, 0⟩
def tMma : Cmd := .mma ⟨hd 3 10, 0x10, 0x10, 0, 0, false, true, false, 1, 1, 4, 0x1000, 0x2000, 0, 0, 0, 5, 0, 0, 0⟩
def tMew : Cmd := .mew ⟨hd 3 10, 0x10, 0x10, 0, 0, true, false, false, 1, 1, 0x1000, 0x2000, 0, 0, 0, 0, 0⟩
def tLra : Cmd := .lra ⟨hd 3 10, 0x10, 0x10, 0x10, false, true, false, 0, 1, 1, 4, 0x1000, 0, 0x2000, 0, 0x3000, 0, 0x4000, 0, 0, 0, 0xFFFF, 0, 0, 0⟩
def tQnt : Cmd := .qnt ⟨hd 3 10, 0x1000, 1, 1, 0x2000, 0, 0x10, 0, false, false, 0, false, 0, false, 0, 0, 0, 0, 0, 0⟩
def tDqt : Cmd := .dqt ⟨hd 3 10, 0x1000, 1, 1, 0x2000, 0, 0x10, 0, false, false, 0, false, 0, 0, 0, 0⟩
def tVred : Cmd := .vred ⟨hd 3 10, 0x1000, 0, 1, 1, 0x2000, 0x10, 0, 0, 0, false⟩
def i0 : InSlot := ⟨0, 0, 0, 0, 0⟩
def tVprog : Cmd := .vprog ⟨hd 3 10, 0x8000, 1, 1, 0, 0, 0, 0, 0, 0, { i0 with addr := 0x1000 }, i0, i0, i0, ⟨0x2000, 0, false, false⟩, ⟨0, 0, false, false⟩⟩
def e0 : Ext := Ext.zero
def tMove : Cmd := .move ⟨hd 3 10, 0, 0, 0, 0, false, 0x1000, e0, 0x2000, e0, 64, 64, 1, 64, tags1, 0⟩
def tMoveHost : Cmd := .move ⟨{ hd 3 10 with gslot := 0 }, 3, 0, 0, 0, false, 0x1000, e0, 0x2000, e0, 64, 64, 1, 64, tags1, 0⟩
def tGath : Cmd := .gath ⟨hd 3 10, 0x1000, 0x2000, 64, 0, 0xFFFF, 0x3151000000, 64, 1, 64, tags1⟩
def tDig : Cmd := .dig ⟨hd 3 10, 2, false, 0x3151000000, e0, 64, 0, 64, 0xFFFFFFFF, tags1⟩
def tColl : Cmd := .coll ⟨hd 3 10, 0, 0x00, 0xFFFF, 0x3151000000, 2, 2, 0x3151200000, 16, tags1⟩
def tWait (v : Word) : Cmd := .wait ⟨hd 0xFF 10, 3, v⟩
def tSignal (tgt : BitVec 4) : Cmd := .signal ⟨hd 0xFF 10, tgt, 3, 7, 0x1000, 0⟩
def tPhase (lead : Word) : Cmd := .phase ⟨hd 0xFF 10, 0, 3, lead⟩
def tStep : Cmd := .stepc (hd 0xFF 10)
def tDecide : Cmd := .decide ⟨hd 0xFF 10, 0xFFFF, 0x1000, 3⟩
def tCommit : Cmd := .commit (hd 0xFF 10)
def tMute (p : Bool) : Cmd := .mute (hd 0xFF 10) p
def tSnap : Cmd := .snap ⟨hd 0xFF 10, 9, 0⟩

/-- The command in flight at its completion beat, with the effect `eff`. -/
def inFlight (p : Part) (c : Cmd) (eff : List Wr) : Flight :=
  { (alone p c).planned (dcd c) c 10 with issued := true, issue := 10, compl := 20, eff := eff }

/-- A command decoded behind it, planned at beat 100. -/
def behind : Disp := ⟨6, .wait ⟨hd 0xFF 100, 3, 0⟩, none, none, .desc false 0 0⟩

/-- A running job whose one command in flight is at its completion beat. -/
def ending (p : Part) (c : Cmd) (eff : List Wr) : State :=
  { alone p c with
    drn := { up.drn with beat := 20 }
    job := { (alone p c).job with disp := [behind], flights := [inFlight p c eff], lastPlanned := 20, next := 7 } }

/-- It can complete. -/
def completes (p : Part) (c : Cmd) (eff : List Wr) : Prop := (ending p c eff).Completing (inFlight p c eff)
def tgt0 : DrainTarget := ⟨0, 0, [], 0, 0x10000000000, 0⟩

/-- A running job with one fetched command. -/
def dispatching : State :=
  { alone .compute tMma with job := { (alone .compute tMma).job with
      disp := [], next := 5, seg := .pass ⟨false, 0, 0, 1, 1, true, false, false, 0, 0⟩ [encodeCmd tMma] [encodeCmd tMma] 0 } }

/-! ### Witnesses: one decoded command -/

theorem witness_mma : issuable .compute tMma := by
  unfold issuable State.Alone State.Calm State.Passes; decide +kernel
theorem witness_mew : issuable .compute tMew := by
  unfold issuable State.Alone State.Calm State.Passes; decide +kernel
theorem witness_lra : issuable .compute tLra := by
  unfold issuable State.Alone State.Calm State.Passes; decide +kernel
theorem witness_qnt : issuable .compute tQnt := by
  unfold issuable State.Alone State.Calm State.Passes; decide +kernel
theorem witness_dqt : issuable .compute tDqt := by
  unfold issuable State.Alone State.Calm State.Passes; decide +kernel
theorem witness_vred : issuable .compute tVred := by
  unfold issuable State.Alone State.Calm State.Passes; decide +kernel
theorem witness_vprog : issuable .compute tVprog := by
  unfold issuable State.Alone State.Calm State.Passes; decide +kernel
theorem witness_move : issuable .compute tMove := by
  unfold issuable State.Alone State.Calm State.Passes; decide +kernel
theorem witness_moveFromHost : issuable .compute tMoveHost := by
  unfold issuable State.Alone State.Calm State.Passes; decide +kernel
theorem witness_gath : issuable .compute tGath := by
  unfold issuable State.Alone State.Calm State.Passes; decide +kernel
theorem witness_dig : issuable .compute tDig := by
  unfold issuable State.Alone State.Calm State.Passes; decide +kernel
theorem witness_coll : issuable .compute tColl := by
  unfold issuable State.Alone State.Calm State.Passes; decide +kernel
theorem witness_waitMet : issuable .compute (tWait 0) ∧ ((alone .compute (tWait 0)).job.sigs.getD 3 0 - 0).toNat < 2 ^ 31 := by
  unfold issuable State.Alone State.Calm State.Passes; decide +kernel
theorem witness_waitUnmet : issuable .compute (tWait 1) ∧ 2 ^ 31 ≤ ((alone .compute (tWait 1)).job.sigs.getD 3 0 - 1).toNat := by
  unfold issuable State.Alone State.Calm State.Passes; decide +kernel
theorem witness_signal : issuable .compute (tSignal 1) ∧ issuable .compute (tSignal 2) := by
  unfold issuable State.Alone State.Calm State.Passes; decide +kernel
theorem witness_phase : issuable .compute (tPhase 2) ∧ issuable .compute (tPhase 0) := by
  unfold issuable State.Alone State.Calm State.Passes; decide +kernel
theorem witness_step : issuable .prologue tStep ∧
    (((alone .prologue tStep).planState (dcd tStep)).closeFor false ((alone .prologue tStep).planFlight (dcd tStep)) 10).verifies = false ∧
    (((alone .prologue tStep).planState (dcd tStep)).closeFor false ((alone .prologue tStep).planFlight (dcd tStep)) 10).job.jrn.waiting = [] := by
  unfold issuable State.Alone State.Calm State.Passes; decide +kernel
theorem witness_decide : issuable .compute tDecide ∧ bitAt (alone .compute tDecide).job.rplCtl.toNat 2 = false := by
  unfold issuable State.Alone State.Calm State.Passes; decide +kernel
theorem witness_commit : issuable .commitA tCommit ∧
    ((alone .commitA tCommit).planState (dcd tCommit)).commitBad ((alone .commitA tCommit).planFlight (dcd tCommit)) = false := by
  unfold issuable State.Alone State.Calm State.Passes; decide +kernel
theorem witness_mutePause : issuable .compute (tMute true) := by
  unfold issuable State.Alone State.Calm State.Passes; decide +kernel
theorem witness_snap : issuable .compute tSnap ∧ imageLen (alone .compute tSnap).castPages ≤ tgt0.len.toNat ∧ tgt0.kind.toNat ≤ 1 := by
  unfold issuable State.Alone State.Calm State.Passes; decide +kernel

theorem witness_computeEnds : completes .compute tMma [⟨.core 3, 0x600000, [1]⟩] ∧ computes (inFlight .compute tMma []).cmd = true := by
  unfold completes State.Completing State.Calm; decide +kernel
theorem witness_signalEnds : completes .compute (tSignal 1) [] ∧ completes .compute (tSignal 2) [] := by
  unfold completes State.Completing State.Calm; decide +kernel
theorem witness_decideEnds : completes .compute tDecide [] ∧ (ending .compute tDecide []).job.dec.skip = false := by
  unfold completes State.Completing State.Calm; decide +kernel
theorem witness_commitEnds : completes .commitA tCommit [] ∧ (ending .commitA tCommit []).cast.loadOpen = false ∧
    (ending .commitA tCommit []).crRoom = true ∧ (ending .commitA tCommit []).tablesReady ((ending .commitA tCommit []).stepWord 5) = true := by
  unfold completes State.Completing State.Calm; decide +kernel
theorem witness_muteEnds : completes .compute (tMute true) [] ∧ completes .prologue (tMute false) [] := by
  unfold completes State.Completing State.Calm; decide +kernel

theorem witness_stepRoom : (((alone .prologue tStep).planState (dcd tStep)).closeFor false ((alone .prologue tStep).planFlight (dcd tStep)) 10).job.stop = none := by
  decide +kernel

/-- What a MUTE END needs: its step's records formed, with room in the journal. -/
theorem witness_muteEnd : issuable .prologue (tMute false) ∧ (alone .prologue (tMute false)).job.jrn.closed = false ∧
    ((((alone .prologue (tMute false)).planState (dcd (tMute false))).notePass ((alone .prologue (tMute false)).planFlight (dcd (tMute false)))).closeFor
      false ((alone .prologue (tMute false)).planFlight (dcd (tMute false))) 10).job.jrn.waiting = [] ∧
    ((((alone .prologue (tMute false)).planState (dcd (tMute false))).notePass ((alone .prologue (tMute false)).planFlight (dcd (tMute false)))).closeFor
      false ((alone .prologue (tMute false)).planFlight (dcd (tMute false))) 10).job.stop = none := by
  unfold issuable State.Alone State.Calm State.Passes; decide +kernel
theorem witness_fault : (alone .compute tCommit).Alone (dcd tCommit) ∧ (alone .compute tCommit).ring.fltCode = 0 ∧
    ((alone .compute tCommit).dueState (dcd tCommit)).planChk (dcd tCommit) 10 = some (0x9001, fieldAt 0 31 24, 1, 0) := by
  unfold State.Alone State.Calm; decide +kernel

/-- A running job for which a PAUSE waits, with a command decoded behind the one at the boundary. -/
def pausing : State :=
  { alone .compute tMma with job := { (alone .compute tMma).job with pausePend := true, disp := [dcd tMma, behind], next := 7 } }
theorem witness_pause : pausing.Calm ∧ pausing.job.ending = false ∧ pausing.job.flights = [] ∧ pausing.drn.beat ≤ pausing.plannedOf (dcd tMma) ∧
    pausing.job.lastPlanned ≤ pausing.plannedOf (dcd tMma) ∧ (∀ e ∈ [behind], (dcd tMma).idx < e.idx) ∧
    (∀ l, pausing.streamLimit = some l → pausing.plannedOf (dcd tMma) < l) ∧ pausing.asked = true ∧
    (pausing.dueState (dcd tMma)).planChk (dcd tMma) (pausing.plannedOf (dcd tMma)) = none := by
  unfold State.Calm; decide +kernel

/-- A running job at the boundary of a COMMIT, with nothing decoded. -/
def atBoundary : State := { alone .compute tMma with job := { (alone .compute tMma).job with disp := [], bound := true, boundIdx := some 4 } }
/-- The same, with a load of the page attributes due there and not ready. -/
def atLate : State := { atBoundary with pat := { atBoundary.pat with st := 1, due := [atBoundary.stepWord 4] } }
theorem witness_boundary : ({ atBoundary with job := { atBoundary.job with bound := false } } : State).Calm ∧ atBoundary.job.bound = true ∧
    atBoundary.job.flights = [] ∧ atBoundary.tablesReady (atBoundary.stepWord 4) = true ∧
    ({ atLate with job := { atLate.job with bound := false } } : State).Calm ∧ atLate.tablesReady (atLate.stepWord 4) = false := by
  unfold State.Calm; decide +kernel
theorem witness_dispatch : (dispatching.fetched).isSome = true ∧ dispatching.takes = true ∧ dispatching.job.next < dispatching.nextIssue + 8192 := by
  decide +kernel
theorem witness_reservedOpcode : bodyFields (fieldOf (List.replicate 32 (0xFF000000 : Word)) (0, 31, 24)) = none := by decide +kernel
theorem witness_reservedField : ∀ f ∈ headerFields ++ (bodyFields (tWait 0).opcode).getD [], ¬(f.1 = 31 ∧ f.2.2 ≤ 31 ∧ 31 ≤ f.2.1) := by decide +kernel

/-- The manifest of one shard, Cast page 0, whose digest is `d`; its copies' pages are valid. -/
def manifest (d : Nat) : Mem :=
  Mem.setBytes (Mem.setBytes [] (pageSize + 8) [1]) (pageSize + 64) (leBytes 8 0 ++ leBytes 8 pageSize ++ leBytes 8 d ++ [3])
/-- A shard MOVE of that page from host memory. -/
def tShard : Cmd :=
  .move ⟨{ hd 3 10 with gslot := 0 }, 3, 2, 0, 0, true, 0x1000, e0, 0x8000000000000000, e0, 65536, 65536, 31, 65536, tags1, 0⟩
/-- A running job before it. -/
def beforeShard : State :=
  let s := alone .prologue tShard
  { s with hbm := manifest 7, pat := { s.pat with cur := [(2, 0xE000), (110592, 0xE000)] } }
theorem witness_shard : beforeShard.Alone (dcd tShard) ∧ beforeShard.Passes (dcd tShard) ∧
    ((beforeShard.planState (dcd tShard)).openLoad.findShard 0 (32 * 65536)).isSome = true ∧
    (beforeShard.planState (dcd tShard)).openLoad.cast.badHdr = false ∧
    ({ beforeShard with hbm := [] } : State).Alone (dcd tShard) ∧ ({ beforeShard with hbm := [] } : State).Passes (dcd tShard) ∧
    (({ beforeShard with hbm := [] } : State).planState (dcd tShard)).openLoad.cast.badHdr = true := by
  unfold State.Alone State.Calm State.Passes; decide +kernel

/-- A job of two ranks, both of which take peer operations. -/
def twoRanks (s : State) : State :=
  { s with job := { s.job with
      desc := { s.job.desc with nrank := 2 }
      grpTable := leBytes 16 0 ++ leBytes 8 64 ++ leBytes 8 160 ++ leBytes 32 0 ++ leBytes 32 0 ++ [1] ++ leBytes 15 0 ++ leBytes 32 0 ++ [1] ++ leBytes 15 0 } }
/-- The COLL of a group of two ranks, in a slot of the group queue. -/
def tColl2 : Cmd := .coll ⟨{ hd 3 10 with gslot := 0 }, 0, 0x00, 0xFFFF, 0x3151000000, 2, 2, 0x3151200000, 16, tags1⟩
/-- A job under CONLY. -/
def conly (s : State) : State := { s with job := { s.job with rplCtl := 4 } }
theorem witness_collMembers : (twoRanks (alone .compute tColl2)).Alone (dcd tColl2) ∧ (twoRanks (alone .compute tColl2)).Passes (dcd tColl2) ∧
    ∃ c, tColl2 = .coll c ∧ 1 < (((twoRanks (alone .compute tColl2)).planState (dcd tColl2)).collCtx c).n := by
  refine ⟨by unfold State.Alone State.Calm; decide +kernel, by unfold State.Passes; decide +kernel, _, rfl, by decide +kernel⟩
theorem witness_collConly : (conly (alone .compute tColl)).Alone (dcd tColl) ∧ (conly (alone .compute tColl)).Passes (dcd tColl) ∧
    bitAt (conly (alone .compute tColl)).job.rplCtl.toNat 2 = true := by unfold State.Alone State.Calm State.Passes; decide +kernel
theorem witness_collEnds : completes .compute tColl [⟨.hbm, 0x3151200000, [1]⟩] ∧ (inFlight .compute tColl []).need = 0 ∧
    (ending .compute tColl []).collDead 5 = false := by unfold completes State.Completing State.Calm; decide +kernel
theorem witness_decideConly : (conly (alone .compute tDecide)).Alone (dcd tDecide) ∧ (conly (alone .compute tDecide)).Passes (dcd tDecide) ∧
    ((((conly (alone .compute tDecide)).planState (dcd tDecide)).notePass ((conly (alone .compute tDecide)).planFlight (dcd tDecide))).closeFor
      true ((conly (alone .compute tDecide)).planFlight (dcd tDecide)) 10).job.jrn.waiting = [] ∧
    (conly (alone .compute tDecide)).job.jrn.closed = false ∧
    ((((conly (alone .compute tDecide)).planState (dcd tDecide)).notePass ((conly (alone .compute tDecide)).planFlight (dcd tDecide))).closeFor
      true ((conly (alone .compute tDecide)).planFlight (dcd tDecide)) 10).job.stop = none := by
  unfold State.Alone State.Calm State.Passes; decide +kernel
theorem witness_dispatchFar : ({ alone .compute tMma with job := { (alone .compute tMma).job with next := 8197 } } : State).nextIssue + 8192 ≤ 8197 := by
  decide +kernel
/-- A digest entry of a step's record. -/
def digEntry : JEntry := ⟨0x12, 3, 1, 7, 64, 5⟩
/-- A job that verifies a restore whose record has that entry, before its second STEP; its own first step has it or
not. -/
def verifying (has : Bool) : State :=
  let s := alone .commitB tStep
  { s with
    job := { s.job with step := some 0, verifying := true, jrn := { s.job.jrn with entries := if has then [digEntry] else [] } }
    mqt := { Mqt.reset with rstSt := 2, verify := true, rstLen := 96 }
    hbm := Mem.setBytes [] (s.reserveBase 0 * pageSize) ([2, 1, 1, 0] ++ leBytes 4 96 ++ List.replicate 56 0 ++ digEntry.bytes) }
/-- The state that closes the first step there. -/
def closedStep (has : Bool) : State :=
  ((verifying has).planState (dcd tStep)).closeFor false ((verifying has).planFlight (dcd tStep)) 10
theorem witness_restoreVerified : (verifying true).Alone (dcd tStep) ∧ (verifying true).Passes (dcd tStep) ∧
    (closedStep true).verifies = true ∧ ((closedStep true).verifyRestore 5).job.stop = none ∧ ((closedStep true).verifyRestore 5).mqt.rstAcc = true ∧
    ((closedStep true).verifyRestore 5).job.jrn.waiting = [] ∧ ((closedStep false).verifyRestore 5).mqt.rstMis = true := by
  unfold State.Alone State.Calm State.Passes; decide +kernel

/-- Host memory with a drain target entry at 0 that has room. -/
def targets : HostMem := (List.range 64).map (fun i => (i, if i = 37 then 1 else 0))
/-- A job before a SNAP, with an epoch open. -/
def snapped : State :=
  { alone .compute tSnap with mqt := { Mqt.reset with epoch := some ⟨9, 0, 0, tgt0, [], 2, 0, 1, [], [], [], [], 0, false, false, .job⟩ } }
theorem witness_snapRoom : imageLen (alone .compute tSnap).castPages ≤ ((alone .compute tSnap).readTarget targets 0).len.toNat ∧
    ((alone .compute tSnap).readTarget targets 0).kind.toNat ≤ 1 ∧ (alone .compute tSnap).mqt.epoch = none ∧
    ((alone .compute tSnap).readTarget [] 0).len.toNat < imageLen (alone .compute tSnap).castPages ∧
    snapped.Alone (dcd tSnap) ∧ snapped.Passes (dcd tSnap) ∧ snapped.mqt.epoch.isSome = true := by
  unfold State.Alone State.Calm State.Passes; decide +kernel

/-! ### Witnesses: events, rings, jobs -/

/-- The log full. -/
def logFull : Evt := { Evt.reset with head := 4096 }
theorem witness_log : (logFull.head - logFull.tail).toNat = 4096 ∧ (Evt.reset.head - Evt.reset.tail).toNat ≠ 4096 ∧ State.reset.dev ≠ .off := by decide
/-- The module in recovery mode. -/
def inRecovery : State := { State.reset with dev := .failed, pln := { Pln.reset with recov := true } }
theorem witness_vectors : State.reset.msix[0]? = some ⟨0, 0, true, false⟩ ∧
    ({ up with msix := [⟨0, 0, false, false⟩] } : State).msix[0]? = some ⟨0, 0, false, false⟩ ∧ up.pci.cfg.msix = false ∧
    up.pln.recov = false ∧ inRecovery.pln.recov = true := by decide +kernel

/-- A job ring of two descriptors. -/
def ringed : State := { up with ring := { Ring.reset with log2 := 1 } }
/-- A running job of PRIO 0 with a job ring. -/
def ringedRun : State := { alone .compute tMma with ring := { Ring.reset with log2 := 1 } }
theorem witness_doorbell : ringed.ring.log2 ≠ 0 ∧ ((2 : Half) - ringed.ring.cons).toNat ≤ 2 ^ ringed.ring.log2 ∧
    (ringed.ring.prod - ringed.ring.cons).toNat ≤ ((2 : Half) - ringed.ring.cons).toNat ∧ ringed.live = false ∧
    2 ^ ringed.ring.log2 < ((3 : Half) - ringed.ring.cons).toNat := by decide +kernel
theorem witness_doorbellAsks : ringedRun.live = true ∧ ringedRun.dev = .up ∧ ringedRun.rcv.parked = none ∧
    ∃ x ∈ ([1] : List (BitVec 4)), ringedRun.job.desc.prio < x.toNat := by decide +kernel
theorem witness_ringWrite : (up.jobSt = .empty ∧ up.rcv.parked = none ∧ up.ring.cons = up.ring.prod) ∧
    ringedRun.jobSt ≠ .empty := by decide +kernel

/-- A descriptor waits. -/
def waitingDesc : State := { ringed with ring := { ringed.ring with prod := 1, waiting := [0] } }
theorem witness_loadBegin : waitingDesc.jobSt = .empty ∧ waitingDesc.dev = .up ∧ waitingDesc.ring.cons ≠ waitingDesc.ring.prod ∧
    waitingDesc.ring.log2 ≠ 0 ∧ (List.replicate 256 (0 : Byte)).length = 256 ∧ waitingDesc.rcv.parked = none := by decide +kernel

/-- The device reserves of an image without fields: the SAVE areas and one journal page. -/
def reserves : List (Nat × Half) :=
  (List.range 4).flatMap (fun d => (List.range 200).map (fun i => ((d + 1) * 110592 - 200 + i, (0x8200 : Half))))
/-- A descriptor's 256 bytes for those reserves. -/
def rawDesc : List Byte :=
  leBytes 12 0 ++ leBytes 2 1 ++ leBytes 2 0 ++ leBytes 16 0 ++ leBytes 8 2 ++ leBytes 16 0 ++ leBytes 4 8 ++ leBytes 12 0 ++
    leBytes 8 (patDigest 2 (patOf reserves)) ++ leBytes 16 0 ++ leBytes 8 ((110592 - 200) * pageSize) ++ leBytes 4 1 ++ leBytes 148 0
/-- LOADING with that descriptor. -/
def loading : State :=
  { up with img := [], jobSt := .loading, job := { Job.none with raw := rawDesc, desc := descOf rawDesc } }
theorem witness_loads : loading.jobSt = .loading ∧ (loading.loadChecks ⟨reserves, 0, [], 0⟩).2 = true ∧
    (loading.loadChecks ⟨reserves, 0, [], 0⟩).1.duoOn = false := by decide +kernel
theorem witness_loadFails : (loading.loadChecks ⟨[], 0, [], 0⟩).2 = false ∧ (loading.loadChecks ⟨[], 0, [], 0⟩).1.duoOn = false := by
  decide +kernel
theorem witness_launch : ({ loading with jobSt := .armed } : State).jobSt = .armed ∧ loading.dev = .up ∧ loading.duoOn = false ∧
    loading.clk.stopped = false ∧ ({ loading with clk := Clk.reset } : State).clk.stopped = true := by decide +kernel

/-! ### Witnesses: the stream's fetch, requests, holds -/

/-- A segment descriptor's bytes: one command at 0x2000 in host memory, last. -/
def segHead : List Byte :=
  leBytes 8 0x2000 ++ leBytes 4 1 ++ leBytes 2 1 ++ [4, 0] ++ leBytes 8 (pd61 2 ((encodeCmd tMma).flatMap (fun w => leBytes 4 w.toNat))) ++ leBytes 32 0
def segBytes : List Byte := segHead ++ leBytes 8 (pd61 2 segHead)
/-- A running job whose stream is at `x`. -/
def fetching (x : SegSt) : State := { alone .compute tMma with job := { (alone .compute tMma).job with disp := [], seg := x } }
theorem witness_segDesc : (fetching (.desc false 0 0)).fetches = true ∧ segBytes.length = 64 ∧ (segOf64 false 0 segBytes).ncmd ≠ 0 ∧
    pd61 (fetching (.desc false 0 0)).key (segBytes.take 56) = numAt segBytes 56 8 ∧ segChk (segOf64 false 0 segBytes) segBytes = none := by
  decide +kernel
theorem witness_segUnwritten : (List.replicate 64 (0 : Byte)).length = 64 ∧ (segOf64 false 0 (List.replicate 64 0)).ncmd = 0 := by decide +kernel
theorem witness_segBad : (segOf64 false 0 (leBytes 56 (2 ^ 64) ++ leBytes 8 1)).ncmd ≠ 0 ∧
    pd61 2 ((leBytes 56 (2 ^ 64) ++ leBytes 8 1).take 56) ≠ numAt (leBytes 56 (2 ^ 64) ++ leBytes 8 1) 56 8 := by decide +kernel
theorem witness_segReread : (fetching (.unwritten false 0)).fetches = true := by decide +kernel
theorem witness_segCommands : (fetching (.cmds (segOf64 false 0 segBytes) 0)).fetches = true ∧
    ((encodeCmd tMma).flatMap (fun w => leBytes 4 w.toNat)).length = 128 * (segOf64 false 0 segBytes).ncmd ∧ (segOf64 false 0 segBytes).csp = false ∧
    pd61 (fetching (.cmds (segOf64 false 0 segBytes) 0)).key ((encodeCmd tMma).flatMap (fun w => leBytes 4 w.toNat)) = (segOf64 false 0 segBytes).cdig.toNat := by
  decide +kernel

/-- The job in state `j`. -/
def inJob (j : JobSt) : State := { alone .compute tMma with jobSt := j }
theorem witness_requests : (inJob .empty).dev = .up ∧ (inJob .empty).jobSt = .empty ∧ (inJob .running).live = true ∧
    (inJob .held).live = true ∧ (inJob .paused).live = false ∧ (inJob .paused).job.saving = false ∧ (inJob .paused).clk.stopped = false ∧
    (inJob .paused).pln.recov = false ∧ ({ inJob .paused with clk := Clk.reset } : State).clk.stopped = true ∧ (inJob .paused).rcv.marked = false ∧
    (inJob .done).jobSt = .done ∧ (inJob .done).rcv.parked = none := by decide +kernel

/-- A job paused by a pre-emption request. -/
def preempted : State := { inJob .paused with job := { (inJob .paused).job with saving := true } }
theorem witness_save : preempted.jobSt = .paused ∧ preempted.dev = .up ∧ preempted.job.saving = true ∧ preempted.rcv.parked = none := by
  decide +kernel
/-- Its park. -/
def park (seg : SegSt) : Parked :=
  { job := { preempted.job with saving := false }, cores := preempted.cores, pat := preempted.pat, adt := Table.empty, cast := Cast.reset
    aud := Aud.reset, ring := Ring.reset, net := Net.reset, at_ := 40, count := 0, overrun := 0, preMax := 0, resume := none, replay := false
    rec_ := ⟨0, 5, none, 40, seg, [], 0, 0, [], [], Cast.reset, Dec.reset, [], 0⟩, cause := 0, slice := 0, replayTo := none, kept := []
    last := [], hang := 0, shdAfter := false, adds := [], lastBnd := none, pwr := Pwr.reset, duo := Duo.reset, served := true }
/-- The module EMPTY with a job parked. -/
def parkedAt (seg : SegSt) : State := { up with rcv := { Rcv.reset with parked := some (park seg) } }
theorem witness_restore : (parkedAt (.desc false 0 0)).jobSt = .empty ∧ (parkedAt (.desc false 0 0)).dev = .up ∧
    (park (.desc false 0 0)).served = true ∧ (park (.desc false 0 0)).replay = false ∧
    (parkedAt (.desc false 0 0)).clk.stopped = false := by decide +kernel
theorem witness_restoreChanged : (park (.pass (segOf64 false 0 segBytes) [] [] 0)).rec_.pos = .pass (segOf64 false 0 segBytes) [] [] 0 ∧
    (segOf64 false 0 segBytes).cdig ≠ 0 := by decide +kernel
/-- A running job at the end of its slice. -/
def sliced : State := { inJob .running with rcv := { Rcv.reset with slice := 1, sliceNs := 1000 }, ring := { Ring.reset with waiting := [0] } }
theorem witness_slice : sliced.live = true ∧ sliced.dev = .up ∧ sliced.rcv.slice ≠ 0 ∧ 1000 * sliced.rcv.slice.toNat ≤ sliced.rcv.sliceNs ∧
    sliced.rcv.sliceEnd = none ∧ sliced.rcv.parked = none ∧ ∃ x ∈ sliced.ring.waiting, sliced.job.desc.prio ≤ x.toNat := by decide +kernel

theorem witness_holdBegin : (inJob .running).jobSt = .running ∧
    lowVote ((inJob .running).goodVotes [⟨11, 0, 0xFF⟩, ⟨1, 3, 0xFF⟩]) = some ⟨1, 3, 0xFF⟩ := by decide +kernel
/-- A hold in progress on a clock that runs. -/
def held : State := inJob .held
theorem witness_holdEnd : held.jobSt = .held ∧ held.dev = .up ∧ held.clk.stopped = false ∧ held.drn.len < held.drn.warn.toNat := by decide +kernel

/-- The loading job of a Duo, with a partner's loading digest. -/
def loadingDuo (d : DWord) : State :=
  { loading with img := [(0x0101, [2])], duo := { Duo.reset with ptnLoad := some d, ptnArmed := true } }
theorem witness_loadsDuo : (loadingDuo 0).jobSt = .loading ∧ ((loadingDuo 0).loadChecks ⟨reserves, 0, [], 0⟩).2 = true ∧
    ((loadingDuo 0).loadChecks ⟨reserves, 0, [], 0⟩).1.duoOn = true ∧
    ((loadingDuo 0).loadChecks ⟨reserves, 0, [], 0⟩).1.duo.ptnLoad = some 0 ∧
    (0 : DWord).toNat ≠ ((loadingDuo 0).loadChecks ⟨reserves, 0, [], 0⟩).1.loadDigest := by decide +kernel
/-- That job ARMED, its partner with the same digest or another. -/
def armedDuo (d : DWord) : State := { loadingDuo d with jobSt := .armed }
theorem witness_launchDuo : (armedDuo 0).duoOn = true ∧ (armedDuo 0).jobSt = .armed ∧ (armedDuo 0).dev = .up ∧
    (0 : DWord).toNat ≠ (armedDuo 0).loadDigest ∧
    (BitVec.ofNat 64 (armedDuo 0).loadDigest).toNat = (armedDuo (BitVec.ofNat 64 (armedDuo 0).loadDigest)).loadDigest := by decide +kernel
theorem witness_segHeard : (fetching (.desc true 0x1000 3)).fetches = true ∧ segBytes ≠ (fetching (.desc true 0x1000 3)).hbm.read 0x1000 64 ∧
    List.replicate 64 (0 : Byte) = (fetching (.desc true 0x1000 3)).hbm.read 0x1000 64 := by decide +kernel
/-- A descriptor that digests right and breaks R210. -/
def segBroken : List Byte := leBytes 56 (2 ^ 64) ++ leBytes 8 (pd61 2 (leBytes 56 (2 ^ 64)))
theorem witness_segBreaks : segBroken.length = 64 ∧ (segOf64 false 0 segBroken).ncmd ≠ 0 ∧ (segChk (segOf64 false 0 segBroken) segBroken).isSome = true ∧
    pd61 (fetching (.desc false 0 0)).key (segBroken.take 56) = numAt segBroken 56 8 := by decide +kernel
/-- A job 8,192 commands ahead, whose commands come next. -/
def farAhead : State :=
  let s := alone .compute tMma
  { s with job := { s.job with next := 8197, seg := .cmds (segOf64 false 0 segBytes) 0 } }
theorem witness_segFar : farAhead.fetches = true ∧ farAhead.fetchRoom < (segOf64 false 0 segBytes).ncmd ∧
    (segOf64 false 0 segBytes).ncmd ≤ (fetching (.cmds (segOf64 false 0 segBytes) 0)).fetchRoom ∧ pd61 2 (List.replicate 128 0) ≠ (segOf64 false 0 segBytes).cdig.toNat := by
  decide +kernel
theorem witness_abortHeld : ({ inJob .running with dev := .recovering } : State).jobSt ≠ .empty ∧
    ({ inJob .running with ring := { Ring.reset with fltCode := 0x2006 } } : State).ring.fltCode ≠ 0 ∧
    ({ inJob .paused with rcv := { Rcv.reset with marked := true } } : State).rcv.marked = true ∧ (inJob .faulted).jobSt = .faulted ∧
    (inJob .loading).jobSt = .loading ∧ (inJob .armed).jobSt = .armed := by decide +kernel

/-- The module EMPTY with a job parked that no descriptor has followed, or that a reset marked. -/
def parkedSo (served replay : Bool) : State :=
  { up with rcv := { Rcv.reset with parked := some { park (.desc false 0 0) with served := served, replay := replay } } }
theorem witness_parkedSo : (parkedSo false false).jobSt = .empty ∧ (parkedSo false false).dev = .up ∧
    (parkedSo true true).rcv.parked.any (fun p => p.replay && p.served) = true ∧ (parkedSo true false).mqt.late = [] ∧
    ({ parkedSo true false with dev := .recovering } : State).dev = .recovering := by decide +kernel
/-- The parked job's epoch is open, or another's. -/
def parkedEpoch (o : EpochOf) : State :=
  { parkedSo true false with mqt := { Mqt.reset with epoch := some ⟨9, 0, 0, tgt0, [], 2, 0, 1, [], [], [], [], 0, false, false, o⟩ }, wp := [5] }
theorem witness_discard : (parkedEpoch .parked).mqt.epoch.any (fun e => e.by_ == .parked) = true ∧
    (parkedEpoch .gone).mqt.epoch.any (fun e => e.by_ != .parked) = true ∧ (parkedEpoch .gone).rcv.parked.isSome = true ∧
    (parkedEpoch .gone).dev ≠ .recovering ∧ (parkedEpoch .gone).pln.recov = false := by decide +kernel
theorem witness_sliceKeeps : ({ sliced with ring := Ring.reset } : State).ring.waiting = [] ∧ ({ sliced with ring := Ring.reset } : State).live = true := by
  decide +kernel

/-! ### Witnesses: deliveries, counters, tables, epochs -/

/-- A MOVE from host memory awaiting its one chunk; `tries` resends so far. -/
def awaited (tries : Nat) : Flight :=
  { inFlight .compute tMoveHost [] with need := 2, compl := 500, tries := if tries = 0 then [] else [(0, tries)] }
/-- A running job with that MOVE in flight. -/
def awaiting (tries : Nat) : State :=
  { alone .compute tMoveHost with job := { (alone .compute tMoveHost).job with disp := [], flights := [awaited tries] } }
theorem witness_chunk : (awaiting 0).flight 5 = some (awaited 0) ∧ (awaited 0).issued = true ∧ 0 < (awaiting 0).chunkCount (awaited 0) ∧
    (awaiting 0).chunkSize (awaited 0) 0 = 128 ∧ (awaited 0).got.lookup 0 = none ∧ 0 ∉ (awaited 0).dead ∧ (awaited 0).need ≠ 0 ∧
    (awaiting 0).rcv.replayTo = none ∧ (awaiting 0).fromSpace (awaited 0) = 3 ∧
    (awaiting 0).pd (List.replicate 128 7) = (BitVec.ofNat 64 ((awaiting 0).pd (List.replicate 128 7))).toNat := by decide +kernel
theorem witness_chunkBad : (awaiting 0).pd (List.replicate 128 7) ≠ (0 : DWord).toNat ∧ ((awaited 0).tries.lookup 0).getD 0 < 3 ∧
    3 ≤ ((awaited 3).tries.lookup 0).getD 0 ∧ (awaiting 3).flight 5 = some (awaited 3) := by decide +kernel
/-- A MOVE whose peer has not yet answered. -/
def unanswered : State :=
  { awaiting 0 with job := { (awaiting 0).job with flights := [{ awaited 0 with acks := 1, need := 0 }] } }
theorem witness_response : unanswered.flight 5 = some { awaited 0 with acks := 1, need := 0 } ∧ (awaited 0).issued = true := by decide +kernel
theorem witness_hostRead : up.flight 5 = none ∧ (HostRead.timeout ≠ .ok) ∧ (awaiting 0).fromSpace (awaited 0) = 3 ∧ 0 < (awaited 0).need := by
  decide +kernel

/-- A shard MOVE of 64 bytes from host memory awaiting its one chunk, already fetched `n` times. -/
def shardMove : MoveCmd := ⟨{ hd 3 10 with gslot := 0 }, 3, 2, 0, 0, true, 0x1000, e0, 0x8000000000000000, e0, 64, 64, 0, 64, tags1, 0⟩
def awaitedShard (n tries : Nat) : Flight :=
  { inFlight .prologue (.move shardMove) [] with
    need := 1, compl := 500
    tries := (if n = 0 then [] else [(fetchKey, n)]) ++ (if tries = 0 then [] else [(0, tries)]) }
/-- A running job with that MOVE in flight; the manifest has its entry with the digest `d`, or none. -/
def awaitingShard (n tries : Nat) (entry : Option Nat) : State :=
  { alone .prologue (.move shardMove) with
    hbm := match entry with
      | some d => Mem.setBytes (Mem.setBytes [] (pageSize + 8) [1]) (pageSize + 64) (leBytes 8 0 ++ leBytes 8 64 ++ leBytes 8 d)
      | none => []
    job := { (alone .prologue (.move shardMove)).job with disp := [], flights := [awaitedShard n tries] } }
/-- Its bytes, and what is kept when they are here. -/
def shardBytes : List Byte := List.replicate 64 7
def shardHere (n : Nat) : Flight := { awaitedShard n 0 with got := [(0, shardBytes)] }
theorem witness_shardChunk : (awaitingShard 0 0 (some 5)).flight 5 = some (awaitedShard 0 0) ∧ (awaitedShard 0 0).issued = true ∧
    0 < (awaitingShard 0 0 (some 5)).chunkCount (awaitedShard 0 0) ∧ (awaitingShard 0 0 (some 5)).chunkFits (awaitedShard 0 0) 0 64 = true ∧
    (awaitedShard 0 0).inReach 0 = true ∧ (awaitedShard 0 0).need ≠ 0 ∧ (awaitedShard 0 0).need ≤ (shardHere 0).got.length ∧
    (awaitingShard 0 0 (some 5)).shardEntry shardMove = some (0, 5) ∧ (awaitingShard 0 0 none).shardEntry shardMove = none ∧
    (awaitingShard 0 0 (some 5)).pdChunks ((awaitingShard 0 0 (some 5)).srcBytes (shardHere 0)) ≠ 5 ∧
    ((awaitedShard 0 0).note fetchKey).getD 0 + 1 < 4 ∧ 4 ≤ ((awaitedShard 3 0).note fetchKey).getD 0 + 1 ∧
    (awaitingShard 0 0 (some ((awaitingShard 0 0 none).pdChunks shardBytes))).pdChunks
      ((awaitingShard 0 0 (some ((awaitingShard 0 0 none).pdChunks shardBytes))).srcBytes (shardHere 0)) = (awaitingShard 0 0 none).pdChunks shardBytes ∧
    ((awaitingShard 0 0 (some 5)).pd shardBytes = (BitVec.ofNat 64 ((awaitingShard 0 0 (some 5)).pd shardBytes)).toNat) ∧
    (awaitingShard 0 0 (some 5)).rcv.replayTo = none ∧ 3 ≤ ((awaitedShard 0 3).tries.lookup 0).getD 0 ∧
    { awaitedShard 0 0 with need := 2 }.got.length < 2 := by decide +kernel
/-- The good chunk of a MOVE within the module. -/
def inside : State :=
  { awaiting 0 with job := { (awaiting 0).job with flights := [{ inFlight .compute tMove [] with compl := 500 }] } }
theorem witness_chunkInside : inside.flight 5 = some { inFlight .compute tMove [] with compl := 500 } ∧ (inFlight .compute tMove []).need = 0 ∧
    0 < inside.chunkCount (inFlight .compute tMove []) ∧ inside.chunkFits (inFlight .compute tMove []) 0 128 = true ∧
    (inFlight .compute tMove []).inReach 0 = true ∧ (awaiting 0).chunkFits (awaited 0) 0 128 = true ∧ (awaited 0).inReach 0 = true ∧
    inside.fromSpace (inFlight .compute tMove []) ≠ 4 ∧ (inFlight .compute tMove []).acks = 0 := by decide +kernel

theorem witness_sigadd : ((0x80000003 : Word)).getLsbD 31 = true ∧ (inJob .paused).jobSt = .paused := by decide
/-- A packet of type `t` for the job of `alone`, from rank 1. -/
def pkt (t : Byte) : Packet := ⟨t, 1, 2, 1, 0, 7, 8, 0, 0, 0, 0, 0, 0, 0, 0, []⟩
theorem witness_admits : (inJob .running).Admits (pkt 4) ∧ ((1 : Nat), (7 : Word), (8 : Word)) ∉ (inJob .running).net.sigSeen := by
  unfold State.Admits; decide +kernel
/-- The same job with that SIGNAL already added. -/
def seen : State := { inJob .running with net := { Net.reset with sigSeen := [(1, 7, 8)] } }
theorem witness_admitsSeen : seen.Admits (pkt 4) ∧ ((1 : Nat), (7 : Word), (8 : Word)) ∈ seen.net.sigSeen := by unfold State.Admits; decide +kernel

/-- Two completion records not yet consumed. -/
def recorded : State := { inJob .running with job := { (inJob .running).job with crProd := 2 }, ring := { Ring.reset with crCons := 1 } }
theorem witness_crcons : recorded.job.crPend = [] ∧ recorded.ring.crCons.toNat ≤ (2 : Word).toNat ∧ (2 : Word).toNat ≤ recorded.job.crProd ∧
    (0 : Word).toNat < recorded.ring.crCons.toNat ∧ recorded.job.crProd < (3 : Word).toNat ∧ recorded.job.jrn.waiting = [] := by decide +kernel
/-- A record that waits for room in a journal of `n` pages. -/
def journaled (n : Nat) : State :=
  { inJob .running with job := { (inJob .running).job with
      desc := { Desc.none with jrnaddr := 101000 * pageSize, jrnpages := n }, jrn := { Jrn.empty with waiting := [List.replicate 64 1] } } }
theorem witness_journal : (journaled 1).job.jrn.waiting = [List.replicate 64 1] ∧ (journaled 1).jrnRoom 64 = true ∧ (journaled 0).jrnRoom 64 = false := by
  decide +kernel

/-- A header for generation 1 of the page attributes, or of the adapter directory. -/
def tblHead (ad : Bool) : TableHead := ⟨if ad then 1 else 0, false, if ad then 65536 else 442368, 1, 9, 0⟩
theorem witness_table : (inJob .running).fetches = true ∧ ((inJob .running).table false).st ≠ 1 ∧ ((inJob .running).table false).st ≠ 2 ∧
    (tblHead false).table.toNat = 0 ∧ (tblHead false).nent.toNat = nPages ∧
    (tblHead false).gen.toNat = (((inJob .running).table false).gen + 1) % 65536 ∧
    (inJob .running).job.commits ≤ ((tblHead false).apply - (inJob .running).job.stepBase).toNat := by decide +kernel
/-- A load of the adapter directory, or of the page attributes, in progress with digest `d`. -/
def tableLoading (ad : Bool) (d : Nat) : State :=
  let t : Table := { Table.empty with st := 1, edig := BitVec.ofNat 64 d }
  let s := { inJob .running with img := [(0x0505, [1])] }
  if ad then { s with adt := t } else { s with pat := t, job := { s.job with desc := { s.job.desc with jrnaddr := 9 * pageSize, jrnpages := 0 } } }
theorem witness_adapterImage : ((tableLoading true (adtDigest 2 [(3, 0x80000001)])).table true).st = 1 ∧
    adtDigest (tableLoading true (adtDigest 2 [(3, 0x80000001)])).key [(3, 0x80000001)] =
      ((tableLoading true (adtDigest 2 [(3, 0x80000001)])).table true).edig.toNat := by decide +kernel
theorem witness_pageImage : ((tableLoading false (patDigest 2 [(0, 0x8200), (1, 0xC000)])).table false).st = 1 ∧
    patDigest (tableLoading false 0).key [(0, 0x8200), (1, 0xC000)] =
      ((tableLoading false (patDigest 2 [(0, 0x8200), (1, 0xC000)])).table false).edig.toNat ∧
    ([(0, 0x8200), (1, 0xC000)] : List (Nat × Word)).foldl (fun l e => if e.1 < nPages ∧ e.2 ≠ 0 ∧ (l.lookup e.1).isNone then
        addAt e.1 (e.2.toNat % 65536) l else l) [] = [(0, 0x8200), (1, 0xC000)] ∧
    (tableLoading false 0).imageLacks [(0, 0x8200), (1, 0xC000)] = false := by decide +kernel

/-- An epoch of two pages with `done` of them drained. -/
def epochOf (done : List (Nat × DWord)) (rec : Bool) : Epoch :=
  ⟨9, 0, 0, tgt0, [], 2, 0, 1, [101000, 101001], [], [], done, 0, rec, false, .job⟩
/-- A running job that writes page 101001 while that epoch is open. -/
def draining (done : List (Nat × DWord)) (rec : Bool) : State :=
  { alone .compute tColl with
    mqt := { Mqt.reset with epoch := some (epochOf done rec) }, wp := [101000, 101001]
    job := { (alone .compute tColl).job with
      disp := [], flights := [inFlight .compute tColl [⟨.hbm, 0x3151200000, [1]⟩]] } }
theorem witness_drain : (draining [] false).mqt.epoch = some (epochOf [] false) ∧ (epochOf [] false).nextPage = some 101000 ∧
    (epochOf [] false).ready = false ∧ (epochOf [(101000, 0), (101001, 0)] true).ready = true ∧
    (epochOf [] false).stagedOn (101001 / 110592) < (draining [] false).stagePages ∧
    (draining [] false).job.flights.any (fun f => f.issued && decide (101001 ∈ (draining [] false).untouched f)) = true := by decide +kernel

theorem witness_tableRejects : ((tableLoading true 0).table true).st = 1 ∧ (1 : Word).getLsbD 0 = true ∧ (3 : Word).getLsbD 1 = true ∧
    (tblHead true).gen.toNat ≠ 2 ∧ (inJob .running).commitsPast ≤ ((tblHead false).apply - (inJob .running).job.stepBase).toNat ∧
    (9 : Nat) < ({ inJob .running with job := { (inJob .running).job with commits := 10 } } : State).commitsPast ∧ (inJob .empty).fetches = false := by
  decide +kernel
/-- The epoch's staging pages are all taken, or there are none. -/
def noStage : State := { draining [] false with img := [] }
/-- A host write to page 101000 that waits for its copy. -/
def lateWr : Wr := ⟨.hbm, 101000 * pageSize + 8, [1, 2]⟩
def lateWrite : State :=
  { draining [] false with mqt := { (draining [] false).mqt with late := [lateWr] } }
/-- The epoch with one staged copy; with a record too long, or cut. -/
def stagedEpoch : Epoch := { epochOf [] false with staged := [(101001, 100)], drn := [101001] }
theorem witness_staging : (draining [] false).freeStage (epochOf [] false) (101001 / 110592) ≠ none ∧
    noStage.freeStage (epochOf [] false) (101001 / 110592) = none ∧ noStage.mqt.epoch = some (epochOf [] false) ∧
    noStage.job.flights.any (fun f => f.issued && decide (101001 ∈ noStage.untouched f)) = true ∧
    lateWrite.mqt.epoch = some (epochOf [] false) ∧ pageOf lateWr.addr = 101000 ∧ lateWrite.guarded 101000 = true ∧
    lateWrite.job.flights.any (fun f => f.issued && decide (101000 ∈ lateWrite.untouched f)) = false ∧
    lateWrite.freeStage (epochOf [] false) (101000 / 110592) ≠ none ∧ stagedEpoch.nextPage = some 101001 ∧ (draining [] false).hbm.wf = true := by
  decide +kernel
theorem witness_epochFails : 0x1000000 < ({ epochOf [] true with recLen := 0x1000001 } : Epoch).recLen ∧ ({ epochOf [] true with cut := true } : Epoch).cut = true ∧
    (epochOf [] false).recDone = false ∧ (epochOf [] false).by_ = .job ∧ ({ epochOf [] false with by_ := .gone } : Epoch).by_ = .gone ∧ (inJob .faulted).jobSt = .faulted ∧ up.mqt.epoch = none := by decide

/-! ### Witnesses: restore, resets, charges -/

/-- A complete image header of no pages, for a configuration without Cast pages. -/
def imgHead (cr : List Byte) : ImageHeader :=
  let h : ImageHeader := ⟨1, true, 9, 0, 0, 0, 2, 0, 1, 64, 0, 0⟩
  { h with hdrdig := BitVec.ofNat 64 (headerDigest h cr) }
/-- The module EMPTY under that configuration. -/
def bare : State := { up with img := [] }
theorem witness_restoreBusy : ((0x80000000 : Word)).getLsbD 31 = true ∧ (inJob .running).jobSt ≠ .empty := by decide +kernel
theorem witness_restoreBegin : bare.jobSt = .empty ∧ bare.dev = .up ∧ bare.rcv.parked = none ∧ bare.mqt.epoch = none ∧ bare.mqt.rstSt ≠ 1 ∧
    (imgHead [1]).ver = 1 ∧ (imgHead [1]).done = true ∧ headerDigest (imgHead [1]) [1] = (imgHead [1]).hdrdig.toNat ∧
    (imgHead [1]).cfgdig = bare.pln.cfgDig ∧ (imgHead [1]).npg.toNat = bare.castPages := by decide +kernel
/-- A restore of one page into Cast page 2. -/
def restoring : State := { up with mqt := { Mqt.reset with rstSt := 1, rstHdr := some { imgHead [1] with npg := 1 }, rstCast := [1] } }
/-- That page, all zero but one byte. -/
def page2 : ImagePage := ⟨2, BitVec.ofNat 64 (pageDigest 2 [(5, 9)]), [(5, 9)], 0⟩
theorem witness_restoreEnds : restoring.mqt.rstHdr = some { imgHead [1] with npg := 1 } ∧ restoring.mqt.rstSt = 1 ∧
    (State.restorePages 2 1 0 [page2] restoring).2 = none := by decide +kernel

theorem witness_restoreRejects : (bare.readTarget [(0, 2)] 0).kind.toNat = 2 ∧ (bare.readTarget [] 0).kind.toNat ≤ 1 ∧
    ({ imgHead [1] with done := false } : ImageHeader).done = false ∧ headerDigest (imgHead [1]) [2] ≠ (imgHead [1]).hdrdig.toNat ∧
    ({ imgHead [1] with cfgdig := 9 } : ImageHeader).cfgdig ≠ bare.pln.cfgDig ∧
    headerDigest { imgHead [1] with cfgdig := 9 } [1] ≠ (imgHead [1]).hdrdig.toNat ∧ (imgHead [1]).npg.toNat ≠ up.castPages ∧
    (imgHead [1]).cfgdig = up.pln.cfgDig := by decide +kernel
theorem witness_restoreFails : (State.restorePages 2 1 0 [{ page2 with page := 1 }] restoring).2 = some (5, 1) ∧
    (State.restorePages 2 1 0 [{ page2 with dig := 9 }] restoring).2 = some (4, 2) ∧ [page2].length = ({ imgHead [1] with npg := 1 } : ImageHeader).npg.toNat := by
  decide +kernel

theorem witness_rstctl : up.dev = .up ∧ up.pln.recov = false ∧ up.job.kill = none ∧ ({ up with dev := .recovering } : State).dev = .recovering := by decide +kernel
/-- A running job that has hung, with or without the automatic reset. -/
def hanging (auto : Byte) : State := { inJob .running with img := [(0x0305, [auto])] }
theorem witness_hang : (hanging 1).live = true ∧ (hanging 1).cfg 0x0303 ≤ (hanging 1).rcv.hang ∧ (hanging 1).rcv.hung = false ∧
    bitAt ((hanging 1).cfg 0x0305) 0 = true ∧ bitAt ((hanging 0).cfg 0x0305) 0 = false := by decide +kernel
/-- A hold of cause 0 without a limit on its length. -/
def waited (auto : Byte) : State := { held with img := [(0x0305, [auto])] }
theorem witness_wait_timeout : (waited 4).jobSt = .held ∧ (waited 4).dev = .up ∧ (waited 4).drn.cause = 0 ∧
    (waited 4).cfg 0x0304 * 1000 * (waited 4).clk.mhz ≤ (waited 4).drn.len ∧ bitAt ((waited 4).cfg 0x0305) 2 = true ∧
    bitAt ((waited 0).cfg 0x0305) 2 = false := by decide +kernel

/-- A reset input without failures. -/
def clean : ResetInput := ⟨[], [], [], none, 0⟩
/-- The module in a compute-only reset with nothing loaded. -/
def resetting : State := { up with dev := .recovering }
theorem witness_reset : resetting.dev = .recovering ∧ resetting.live = false ∧ cleanReset clean ∧ resetting.Settled ∧ resetting.rcv.failed = false ∧
    resetting.rcv.abortPend = false :=
  ⟨by decide +kernel, by decide +kernel, by unfold cleanReset; decide +kernel, settled_of rfl rfl, by decide +kernel, by decide +kernel⟩
/-- A running job in a compute-only reset with the resume record of its first step. -/
def resuming : State :=
  { inJob .running with
    dev := .recovering
    rcv := { Rcv.reset with resume := some ⟨0, 3, some 0, 40, .desc false 0 0, List.replicate 64 0, 0, 0, [], [], Cast.reset, Dec.reset,
      List.replicate 192 ([], [], 0, false), 0⟩ } }
theorem witness_rejoin : resuming.dev = .recovering ∧ resuming.live = true ∧ resuming.Settled ∧ resuming.rcv.failed = false ∧
    resuming.rcv.abortPend = false ∧ resuming.rcv.suspects = [] ∧ (resuming.rcv.resume.bind (fun r => resuming.noRejoin r 0)) = none :=
  ⟨by decide +kernel, by decide +kernel, settled_of rfl rfl, by decide +kernel, by decide +kernel, by decide +kernel, by decide +kernel⟩

theorem witness_verdict : ((0x80000003 : Word)).getLsbD 31 = true ∧ ((0xC0000000 : Word)).getLsbD 30 = true ∧ (inJob .running).served 0x600090 = true ∧
    (3 : Nat) < (inJob .running).nCores ∧ (3 : Nat) < (inJob .running).aud.guilt.length ∧ ((0x80000003 : Word)).toNat % 256 = 3 ∧
    ({ inJob .faulted with dev := .failed } : State).served 0x600090 = true := by decide +kernel
/-- A running job with `n` low margin codes of core 0 in a row. -/
def low (n : Nat) : State := { inJob .running with pwr := { Pwr.reset with lowRuns := (Pwr.reset.lowRuns).set 0 n } }
theorem witness_margins : (low 1).pwr.margins.length = 192 ∧ (low 1).pwr.lowRuns.length = 192 ∧
    ∀ l, l < 192 → (([7, 8] : List (BitVec 6)).getD l 0).toNat < (low 1).cfg 0x0406 → (low 1).pwr.lowRuns.getD l 0 ≠ 2 := by decide +kernel
theorem witness_lowMargin : (low 2).jobSt ≠ .empty ∧ (7 : BitVec 6).toNat < (low 2).cfg 0x0406 ∧ (low 2).pwr.lowRuns.getD 0 0 = 2 ∧
    (low 2).pwr.lowRuns ≠ [] ∧ (low 2).aud.guilt ≠ [] ∧ (low 2).pwr.trims.getD 0 0 < 8 ∧ ((low 2).aud.guilt.getD 0 Guilt.clean).pend = none := by
  decide +kernel

/-- A hold of cause 6 for a COLL of two ranks, of which rank 1 is silent. -/
def peerHold : State :=
  let s := twoRanks (ending .compute tColl2 [])
  { s with
    jobSt := .held, drn := { s.drn with cause := 6 }, clk := { Clk.reset with stopped := false, aligned := true }, img := [(0x0305, [0])]
    net := { Net.reset with peers := [⟨1, .silent, 0, 0, 0, 0, false⟩] } }
theorem witness_waitPeer : peerHold.jobSt = .held ∧ peerHold.dev = .up ∧ peerHold.drn.cause = 6 ∧
    peerHold.cfg 0x0304 * 1000 * peerHold.clk.mhz ≤ peerHold.drn.len ∧
    (peerHold.job.flights.flatMap peerHold.awaits).filter (fun r => !peerHold.net.peerUp r) = [1] := by decide +kernel
theorem witness_triggers : ({ up with dev := .failed } : State).dev = .failed ∧ (0 : Word).getLsbD 31 = false ∧
    ({ up with pwr := { Pwr.reset with off := true } } : State).pwr.off = true ∧ resetting.dev = .recovering := by decide +kernel
theorem witness_resetFails : 3 ≤ ({ clean with alignFails := [(0, 1), (1, 1), (3, 2)] } : ResetInput).alignFails.length := by decide
/-- A compute-only reset with an ABORT waiting for its end, of a paused job. -/
def abortWaits : State := { inJob .paused with dev := .recovering, rcv := { Rcv.reset with abortPend := true } }
theorem witness_abortWaits : abortWaits.live = false ∧ abortWaits.rcv.abortPend = true ∧ abortWaits.rcv.failed = false ∧ abortWaits.jobSt = .paused ∧
    abortWaits.Settled := ⟨by decide +kernel, by decide +kernel, by decide +kernel, by decide +kernel, settled_of rfl rfl⟩
/-- A reset after a hang of which core 3 is suspect; the suspect hangs again. -/
def suspecting : State := { resuming with rcv := { resuming.rcv with cause := 2, suspects := [5], suspCore := some 3 } }
theorem witness_guilty : ((some 0).bind (fun i => (suspecting.rcv.suspects.take 16)[i]?) = some 5 ∧ suspecting.rcv.cause = 2) ∧ suspecting.live = true ∧ suspecting.rcv.suspCore = some 3 ∧
    3 < suspecting.aud.guilt.length ∧ cleanReset { clean with hungAgain := some 0 } ∧ suspecting.Settled ∧ suspecting.dev = .recovering :=
  ⟨by decide +kernel, by decide +kernel, by decide +kernel, by decide +kernel, by unfold cleanReset; decide +kernel, settled_of rfl rfl, by decide +kernel⟩
/-- The same reset with a reason of R405 against the rejoin; and in the prologue, with or without a peer's write there. -/
def cannotRejoin : State := { resuming with rcv := { resuming.rcv with shdAfter := true } }
def inPrologue (wrote : Bool) : State :=
  { resuming with rcv := { resuming.rcv with resume := none }, net := { Net.reset with rdmaSpd := if wrote then [0xFFFFFFFF] else [] } }
theorem witness_noRejoin : (cannotRejoin.rcv.resume.bind (fun r => cannotRejoin.noRejoin r 0)) = some 1 ∧ cannotRejoin.live = true ∧
    cannotRejoin.rcv.suspects = [] ∧ resuming.pwr.off = false ∧ clean.hungAgain = none ∧ (inPrologue false).rcv.resume = none ∧ 0xFFFFFFFF ∉ (inPrologue false).net.rdmaSpd ∧
    0xFFFFFFFF ∈ (inPrologue true).net.rdmaSpd ∧ (inPrologue true).rcv.abortPend = false ∧ (inPrologue true).live = true := by decide +kernel
theorem witness_chargeIdle : up.jobSt = .empty ∧ up.dev = .up ∧ up.served 0x600090 = true ∧ (0x800000FF : Word).toNat % 256 = 255 ∧
    up.nCores ≤ 255 ∧ up.aud.guilt.length = 192 ∧ ({ up with dev := .failed } : State).dev ≠ .up := by decide +kernel
/-- Core 0 with two low codes in a row, no job loaded, or its trim at the top. -/
def lowIdle : State := { up with pwr := { Pwr.reset with lowRuns := (Pwr.reset.lowRuns).set 0 2 } }
theorem witness_lowIdle : lowIdle.jobSt = .empty ∧ lowIdle.Settled ∧ lowIdle.pwr.trims ≠ [] ∧ lowIdle.pwr.trims.getD 0 0 < 8 ∧ lowIdle.dev = .up ∧
    8 ≤ ({ low 2 with pwr := { (low 2).pwr with trims := List.replicate 192 8 } } : State).pwr.trims.getD 0 0 :=
  ⟨by decide +kernel, settled_of rfl rfl, by decide +kernel, by decide +kernel, by decide +kernel, by decide +kernel⟩

/-! ### Witnesses: the network -/

/-- A boundary of one command at beat 7. -/
def bnd7 : Bnd := ⟨7, 1, 3⟩
/-- A running Duo job with `own` boundaries not yet compared and `send` waiting to go. -/
def duo (own send : List Bnd) : State := { inJob .running with img := [(0x0101, [2])], duo := { Duo.reset with own := own, send := send } }
/-- A DUO packet that carries one boundary. -/
def duoPkt (b : Bnd) : Packet := { pkt 8 with payload := leBytes 8 b.beat ++ leBytes 8 b.count ++ leBytes 8 b.dig.toNat }
theorem witness_duoSend : (duo [] [bnd7]).duoOn = true ∧ (duo [] [bnd7]).duo.send ≠ [] := by decide +kernel
theorem witness_duoReceive : (duo [bnd7] []).Admits (duoPkt bnd7) ∧ (duo [bnd7] []).duoOn = true ∧ (duo [bnd7] []).live = true ∧
    (duo [bnd7] []).duo.lost = false ∧ (duo [bnd7] []).duo.pendMis = none ∧ (duo [bnd7] []).duo.own = [bnd7] ∧ (duo [bnd7] []).duo.ptn = [] ∧
    (duoPkt bnd7).psn = ((duo [bnd7] []).net.flow 1).rxNext ∧ (duoPkt bnd7).psn ∉ ((duo [bnd7] []).net.flow 1).rxOoo ∧
    bndsOf 170 (duoPkt bnd7).payload = [⟨7, 1, 3⟩] ∧ bndsOf 170 (duoPkt { bnd7 with dig := 4 }).payload = [⟨7, 1, 4⟩] := by
  unfold State.Admits; decide +kernel
/-- RDs of beat 0 are being exchanged. -/
def exchanging : State :=
  let s := duo [] []
  { s with duo := { s.duo with pendMis := some 0, rds := [(0, 4, 0xFF, 6)], ptnRds := [5] }, job := { s.job with disp := [] } }
theorem witness_duoExchange : exchanging.duo.pendMis = some 0 ∧ (exchanging.runTo .ahead).live = true ∧
    firstRd (((exchanging.runTo .ahead).duo.rds.filter (fun r => r.1 == 0)).map (fun r => r.2)) (exchanging.runTo .ahead).duo.ptnRds =
      some (some (4, 0xFF), 6, 5) := by
  decide +kernel
theorem witness_duoSilent : (duo [] []).cfg 0x010D = 0 ∧ ({ duo [] [] with img := [(0x0101, [2]), (0x010D, [1])] } : State).cfg 0x010D ≠ 0 ∧
    ({ duo [] [] with img := [(0x0101, [2]), (0x010D, [1])] } : State).duoOn = true := by decide +kernel

/-- A DATA packet of one chunk. -/
def dataPkt : Packet := { pkt 0 with payload := [1, 2], cdig := BitVec.ofNat 64 (pd61 2 [1, 2]) }
theorem witness_data : (inJob .running).Admits dataPkt ∧ (inJob .running).reserveFull dataPkt = false ∧
    (inJob .running).net.chunks.find? (fun c => c.takes dataPkt) = none ∧ dataPkt.pkt = 0 ∧
    pd61 (inJob .running).key dataPkt.payload = dataPkt.cdig.toNat := by unfold State.Admits; decide +kernel
/-- The same job without a reserve for early arrivals. -/
def full : State := { inJob .running with img := [] }
theorem witness_dataBusy : full.Admits { dataPkt with stepw := 0xFFFFFFFF, cmdw := 9 } ∧ full.reserveFull { dataPkt with stepw := 0xFFFFFFFF, cmdw := 9 } = true ∧
    ({ full with dev := .recovering } : State).Admits dataPkt := by unfold State.Admits; decide +kernel
theorem witness_dataOther : (inJob .running).rcv.parked = none ∧ { dataPkt with ver := 2 }.ver ≠ 1 ∧
    { dataPkt with jtag := 9 }.jtag ≠ BitVec.ofNat 32 ((inJob .running).job.desc.digkey.toNat % 2 ^ 32) := by decide +kernel
/-- A job with packets 4 and 6 to rank 1 unacknowledged and `p` packets from it not yet acknowledged. -/
def flowing (p : Nat) : State :=
  { inJob .running with net := { Net.reset with flows := [⟨1, 7, [⟨{ pkt 0 with psn := 4 }, 1, true, []⟩, ⟨{ pkt 0 with psn := 6 }, 0, true, []⟩], 9, [], p, true, false⟩] } }
theorem witness_ack : (flowing 0).Admits { pkt 2 with psn := 4 } ∧ ((4 : Word) - 4).toNat = 0 ∧
    ¬(((6 : Word) - 4).toNat = 0 ∨ 2 ^ 31 ≤ ((6 : Word) - 4).toNat ∨ (((6 : Word) - 4).toNat ≤ 64 ∧ (pkt 2).cdig.getLsbD (((6 : Word) - 4).toNat - 1) = true)) ∧
    0 ∈ (flowing 0).modulesOf 1 ∧ (0 : Nat) ∉ ([] : List Nat) := by
  unfold State.Admits; decide +kernel
theorem witness_timers : (flowing 3).jobSt ≠ .empty ∧ (flowing 3).net.flows.any (fun g => g.rank == 1) = true ∧ ((flowing 3).net.flow 1).rxPend ≠ 0 ∧
    ((flowing 0).net.flow 1).rxPend = 0 ∧
    ((flowing 0).net.flow 1).unacked.find? (fun y => y.pkt.psn == 4 && y.sent) = some ⟨{ pkt 0 with psn := 4 }, 1, true, []⟩ := by decide +kernel

/-- A job of two ranks, both of which take peer operations, with rank 1 in state `x`. -/
def ranked (x : PeerSt) : State :=
  let s := inJob .running
  { s with
    job := { s.job with
      desc := { s.job.desc with nrank := 2 }
      grpTable := leBytes 16 0 ++ leBytes 8 64 ++ leBytes 8 160 ++ leBytes 32 0 ++ leBytes 32 0 ++ [1] ++ leBytes 15 0 ++ leBytes 32 0 ++ [1] ++ leBytes 15 0 }
    net := { Net.reset with peers := [⟨1, x, 0, 0, 0, 0, false⟩], retain := [(7, { pkt 0 with srank := 0, drank := 1 })] } }
theorem witness_flag : (ranked .up).Admits (pkt 3) ∧ (ranked .up).net.flagRx.find? (fun x => x.rank == (pkt 3).srank.toNat && x.stepw == (pkt 3).stepw) = none ∧
    (ranked .up).decided (pkt 3).stepw = false ∧ ((ranked .up).net.flagRx.filter (fun x => x.rank != (ranked .up).job.desc.rank)).length < 4096 := by
  unfold State.Admits; decide +kernel
/-- That FLAG already waits. -/
def flagged : State := { ranked .up with net := { (ranked .up).net with flagRx := [⟨1, 7, false, 0, 0, 0, 0⟩] } }
theorem witness_flagTwice : flagged.Admits (pkt 3) ∧
    flagged.net.flagRx.find? (fun x => x.rank == (pkt 3).srank.toNat && x.stepw == (pkt 3).stepw) = some ⟨1, 7, false, 0, 0, 0, 0⟩ := by
  unfold State.Admits; decide +kernel
theorem witness_keepalive : (ranked .silent).Admits { pkt 5 with cdig := 0xA000000000000000 } ∧ (pkt 5).srank.toNat ≠ (ranked .silent).job.desc.rank ∧
    (ranked .silent).net.peerSt (pkt 5).srank.toNat = some .silent ∧ (ranked .silent).rcv.parked = none ∧ (ranked .silent).jobSt ≠ .empty := by
  unfold State.Admits; decide +kernel
theorem witness_resync : (ranked .silent).Admits (pkt 6) ∧ ¬((pkt 6).drank = (pkt 6).srank ∧ (pkt 6).len = 0) ∧
    (ranked .silent).lostTo 1 7 = false ∧ (ranked .silent).lostTo 1 8 = false := by unfold State.Admits; decide +kernel
/-- That job replaying a step. -/
def replaying : State := { ranked .up with rcv := { Rcv.reset with replayTo := some 9 } }
theorem witness_refused : replaying.Admits { pkt 6 with drank := 1 } ∧ { pkt 6 with drank := 1 }.drank = { pkt 6 with drank := 1 }.srank ∧
    replaying.live = true ∧ replaying.rcv.replayTo.isSome = true := by unfold State.Admits; decide +kernel
theorem witness_peerOps : (ranked .up).dev = .up ∧ (ranked .up).jobSt.takesPeers = true ∧ (ranked .up).rdmaFrom 1 = true ∧
    (ranked .up).peerOk (ranked .up).pat.cur none 0x3151000000 8 true = true ∧ (ranked .up).peerOk (ranked .up).pat.cur (some 3) 0 8 true = true ∧
    (ranked .up).logical 3 < (ranked .up).cores.length ∧ (ranked .up).peerOk (ranked .up).pat.cur none 0 8 true = false ∧
    (ranked .up).peerOk (ranked .up).pat.cur (some 3) 0x600000 8 false = false := by decide +kernel

/-- Port 0 up. -/
def linked : State := { up with net := { Net.reset with portUp := [true, false, false, false] } }
theorem witness_fabric : linked.dev = .up ∧ linked.jobPort 0 = true ∧ linked.net.portUp.getD 0 false = true ∧ 0 < linked.nPorts ∧
    mapped (imgBytes linked.img 0x0102) = imgBytes linked.img 0x0102 ∧ (3 : BitVec 3).toNat = linked.cfg 0x0103 := by decide +kernel
/-- Port 0 up, locked or with `n` good offsets in a row. -/
def synced (l : Bool) (n : Nat) : State := { linked with ptp := { Ptp.reset with lock := l, good := n } }
theorem witness_ptp : (synced false 15).ptpPort = some 0 ∧ (synced false 15).ptp.good = 15 ∧ (synced true 0).ptp.lock = true ∧
    (99 : Int).natAbs < 100 ∧ 1000 < (-1001 : Int).natAbs ∧ (synced true 0).jobSt = .empty ∧ (-1000001 : Int) < -1000000 ∧
    ({ synced true 0 with jobSt := .running } : State).live = true := by decide +kernel
theorem witness_wallSteps : ∃ t, exec (.ptpMessage ⟨0, 5, 0⟩) (synced false 15) = .next t := ⟨_, rfl⟩
theorem witness_pps : ({ up with ptp := { Ptp.reset with ppsGood := 2 } } : State).ptp.ppsGood = 2 ∧ up.ptp.ppsOk = false ∧
    999900000 ≤ (999900000 : Nat) ∧ 1000 ≤ (1000 : Nat) ∧ (999899999 : Nat) < 999900000 := by decide +kernel

/-! ### Witnesses: repetitions, refusals, resends -/

/-- A running Duo job that has taken the packet before, with the partner's boundary of beat 7 seen. -/
def seenDuo : State :=
  { duo [] [] with
    net := { Net.reset with flows := [⟨1, 0, [], 5, [], 0, false, false⟩] }
    duo := { Duo.reset with seen := [bnd7] } }
theorem witness_duoRepeated : seenDuo.Admits (duoPkt bnd7) ∧ seenDuo.duoOn = true ∧ (seenDuo.net.flow 1).took (duoPkt bnd7).psn = true ∧
    (bndsOf 170 (duoPkt { bnd7 with dig := 4 }).payload).any seenDuo.duo.conflict = true ∧
    (bndsOf 170 (duoPkt bnd7).payload).any seenDuo.duo.conflict = false := by unfold State.Admits; decide +kernel
theorem witness_duoFirst : (duo [bnd7] []).Admits (duoPkt bnd7) ∧ (duoPkt bnd7).psn = ((duo [bnd7] []).net.flow 1).rxNext ∧
    ((duo [bnd7] []).net.flow 1).rxOoo = [] ∧ (duo [bnd7] []).duo.held = [] ∧ (duoPkt bnd7).part = 0 ∧ (duo [bnd7] []).wholeBnd 7 = true ∧
    ({ bnd7 with dig := 4 } : Bnd) ≠ bnd7 ∧ ({ bnd7 with dig := 4 } : Bnd).beat = bnd7.beat ∧ (duo [] []).drn.beat < bnd7.beat ∧
    bnd7.beat ≤ ({ duo [] [] with drn := { up.drn with beat := 9 } } : State).drn.beat := by unfold State.Admits; decide +kernel
theorem witness_duoKinds : ({ duoPkt bnd7 with part := 1 } : Packet).part = 1 ∧ ({ duoPkt bnd7 with part := 2, payload := leBytes 8 5 } : Packet).part = 2 ∧
    (armedDuo 0).Admits { duoPkt bnd7 with part := 2, payload := leBytes 8 5 } ∧ (BitVec.ofNat 64 (leOf ((leBytes 8 5).take 8))).toNat ≠ (armedDuo 0).loadDigest ∧
    ({ exchanging with duo := { exchanging.duo with ptnRds := [] } } : State).duo.pendMis = some 0 ∧ (duo [] []).duo.pendMis = none := by
  unfold State.Admits; decide +kernel

/-- The chunk of `dataPkt` received whole. -/
def wholeChunk : ChunkRx := ⟨1, 7, 8, 0, 0, 0, dataPkt.cdig, [(0, [1, 2])], [], true, 0⟩
def received : State := { inJob .running with net := { Net.reset with chunks := [wholeChunk] } }
theorem witness_dataAgain : received.Admits dataPkt ∧ received.net.chunks.find? (fun c => c.takes dataPkt) = some wholeChunk ∧ wholeChunk.whole = true ∧
    received.reserveFull dataPkt = false ∧ received.dev ≠ .recovering ∧ { dataPkt with cdig := 9 }.cdig ≠ wholeChunk.cdig := by
  unfold State.Admits; decide +kernel
theorem witness_dataBad : pd61 (inJob .running).key { dataPkt with cdig := 9 }.payload ≠ { dataPkt with cdig := 9 }.cdig.toNat ∧
    { dataPkt with cdig := 9 }.payload.length < 4096 ∧ (inJob .running).net.chunks.find? (fun c => c.takes { dataPkt with cdig := 9 }) = none := by
  decide +kernel
/-- A flow held back by a BUSY with nothing outstanding. -/
def busyOnly : State := { inJob .running with net := { Net.reset with flows := [⟨1, 7, [⟨{ pkt 0 with psn := 4 }, 0, false, []⟩], 9, [], 0, true, false⟩] } }
theorem witness_busyOnly : (busyOnly.net.flow 1).busy = true ∧ (∀ y ∈ (busyOnly.net.flow 1).unacked, y.sent = false) ∧ busyOnly.jobSt ≠ .empty ∧
    (busyOnly.net.flow 1).unacked.find? (fun y => y.pkt.psn == 4 && y.sent) = none ∧
    (∃ y ∈ ((flowing 0).net.flow 1).unacked, y.sent = true) := by decide +kernel
theorem witness_retries : (flowing 0).cfg 0x0106 ≤ 64 ∧ ((flowing 0).net.flow 1).told = false ∧
    ((flowing 0).net.flow 1).unacked.find? (fun y => y.pkt.psn == 5 && y.sent) = none ∧ (flowing 0).jobSt ≠ .empty := by decide +kernel

/-- 4,096 FLAGs wait for DECIDEs that have not issued. -/
def flagsFull : State :=
  { ranked .up with net := { (ranked .up).net with flagRx := List.replicate 4096 ⟨2, 9, false, 0, 0, 0, 0⟩ } }
theorem witness_flagFull : flagsFull.net.flagRx.find? (fun x => x.rank == (pkt 3).srank.toNat && x.stepw == (pkt 3).stepw) = none ∧
    flagsFull.ownFlag (pkt 3).stepw = false ∧ 4096 ≤ (flagsFull.net.flagRx.filter (fun x => !flagsFull.ownFlag x.stepw)).length ∧
    flagsFull.decided (pkt 3).stepw = false := by decide +kernel
/-- A later step has been decided; one rank is this one. -/
def decidedLater : State := { ranked .up with job := { (ranked .up).job with step := some 9, stepBase := 0 } }
theorem witness_flagLate : decidedLater.Admits (pkt 3) ∧ decidedLater.decided (pkt 3).stepw = true := by unfold State.Admits; decide +kernel
theorem witness_keepaliveDuo : (duo [] []).Admits { pkt 5 with srank := 0 } ∧ ({ pkt 5 with srank := 0 } : Packet).srank.toNat = (duo [] []).job.desc.rank ∧
    (parkedSo true false).dev ≠ .off ∧ (parkedSo true false).rcv.parked.isSome = true := by unfold State.Admits; decide +kernel
/-- A rank whose packets of the step have been let go of. -/
def released : State := { ranked .silent with net := { (ranked .silent).net with unkept := [(7, 1)] } }
theorem witness_resyncLost : released.Admits (pkt 6) ∧ released.lostTo 1 7 = true ∧ released.net.peerSt 1 = some .silent ∧
    (released.net.flow 1).took (pkt 6).psn = false ∧ ({ released with net := { released.net with flows := [⟨1, 0, [], 5, [], 0, false, false⟩] } } : State).net.flow 1 =
      ⟨1, 0, [], 5, [], 0, false, false⟩ ∧ (⟨1, 0, [], 5, [], 0, false, false⟩ : Flow).took (pkt 6).psn = true := by unfold State.Admits; decide +kernel
/-- That job with an epoch open over page 101000, with staging pages or none. -/
def peerDrain (stage : Bool) : State :=
  { ranked .up with
    mqt := { Mqt.reset with epoch := some (epochOf [] false) }, wp := [101000]
    img := if stage then up.img else [] }
theorem witness_peerGuarded : (peerDrain true).rdmaFrom 1 = true ∧ (peerDrain true).jobSt.takesPeers = true ∧
    (peerDrain true).peerOk (peerDrain true).pat.cur none (101000 * pageSize) 8 true = true ∧ pagesIn (101000 * pageSize) 8 = [101000] ∧
    (peerDrain true).guarded 101000 = true ∧ (peerDrain true).freeStage (epochOf [] false) (101000 / 110592) ≠ none ∧
    (peerDrain false).freeStage (epochOf [] false) (101000 / 110592) = none ∧ (ranked .up).rcv.parked = none ∧
    (5 : Word) ≠ (ranked .up).job.tag := by decide +kernel
theorem witness_ppsFalling : ({ up with ptp := { Ptp.reset with ppsGood := 6 } } : State).ptp.ppsGood = 6 ∧ 600000000 ≤ (600000000 : Nat) ∧
    (synced false 15).cfg 0x010B ≠ 300 ∧ (⟨24, 5, 0⟩ : PtpSample).port = 0 := by decide +kernel

/-- No state above that stands for a served device is in recovery mode, and the running jobs that a trigger stops have no kill
pending. -/
theorem witness_served : ringed.pln.recov = false ∧ ringedRun.pln.recov = false ∧ (inJob .paused).pln.recov = false ∧
    recorded.pln.recov = false ∧ (journaled 1).pln.recov = false ∧ bare.pln.recov = false ∧ (parkedSo true false).pln.recov = false ∧
    (hanging 1).job.kill = none ∧ (up.pci.cfg.noTimeout = false ∧ up.dev ≠ .off) := by decide +kernel

/-! ### Witnesses: power, clocks, boot, host interface, board -/

theorem witness_patrol : up.dev = .up ∧ up.pwr.off = false ∧ (0x3151000000 : Nat) < 0xD800000000 := by decide +kernel
/-- A running job with a manifest of one loaded shard of Cast page 0, whose digest is `d`. -/
def sharded (d : Nat) : State :=
  let s := inJob .running
  let m := Mem.setBytes (Mem.setBytes [] (pageSize + 8) [1]) (pageSize + 64) (leBytes 8 0 ++ leBytes 8 pageSize ++ leBytes 8 d ++ [3])
  { s with hbm := m }
/-- With the digest that its page has. -/
def shardedWell : State := sharded ((sharded 0).shardDigest 0)
theorem witness_scrub : shardedWell.live = true ∧ shardedWell.badHeader = false ∧ shardedWell.scrubNext = some 0 ∧
    shardedWell.shardDigest 0 = shardedWell.hnum (shardedWell.ment 0 + 16) 8 ∧ (sharded 5).scrubNext = some 0 ∧ (sharded 5).badHeader = false ∧
    (sharded 5).shardDigest 0 ≠ (sharded 5).hnum ((sharded 5).ment 0 + 16) 8 := by decide +kernel

/-- A tick's reading with die temperature `d` and stack temperature `h`. -/
def tick (d h : Int) : TickReading := ⟨5000, 1000, [(5000, 1000)], [], true, [d], [h], 30, 40⟩
theorem witness_tick : up.dev ≠ .off ∧ up.dev ≠ .booting ∧ up.pwr.itherm ≤ 64 ∧ (∃ x ∈ (tick 1600 0).tdie, 1600 ≤ x) ∧
    (∃ x ∈ (tick 0 1520).thbm, 1520 ≤ x) ∧ (∀ x ∈ (tick 1552 1472).tdie, x ≤ 1552) ∧ (∀ x ∈ (tick 1552 1472).thbm, x ≤ 1472) := by decide +kernel
theorem witness_calibration : (Pwr.reset.ivCyc + 1000 < 1500 ∧ 1500 ≤ Pwr.reset.ivCyc + 1500) ∧ up.pwr.meas = false ∧ ({ up with pwr := { Pwr.reset with meas := true } } : State).pwr.meas = true := by decide +kernel

theorem witness_trip : up.dev = .up ∧ up.pwr.off = false ∧ 1840 ≤ (1840 : Nat) ∧ 1680 ≤ (1680 : Nat) ∧
    3 ≤ ({ up with brd := { Board.reset with wetRun := 3 } } : State).brd.wetRun := by decide +kernel
/-- The module after a compute trip, locked. -/
def tripped : State := { up with dev := .failed, pwr := { Pwr.reset with off := true, trip := 4 }, pln := { Pln.reset with locked := true } }
theorem witness_tripClear : tripped.dev = .failed ∧ tripped.pln.recov = false ∧ ((0x80000000 : Word)).getLsbD 31 = true ∧
    (∀ x ∈ tripped.pwr.tdie, x ≤ 1440) ∧ (∀ x ∈ tripped.pwr.thbm, x ≤ 1440) ∧ tripped.brd.leak ≠ 1 ∧ tripped.brd.leak ≠ 3 ∧ tripped.pwr.badSensor = false ∧ tripped.pwr.off = true ∧
    tripped.pln.locked = true ∧ (∀ c ∈ tripped.fus.cdStep, c = tripped.fus.cdStep.headD (0, 0)) ∧ cleanReset clean ∧ tripped.Settled :=
  ⟨by decide +kernel, by decide +kernel, by decide +kernel, by decide +kernel, by decide +kernel, by decide +kernel, by decide +kernel,
   by decide +kernel, by decide +kernel, by decide +kernel, fun c hc => List.eq_of_mem_replicate (show c ∈ List.replicate 4 (0x42, 0x31) from hc),
   by unfold cleanReset; decide +kernel, settled_of rfl rfl⟩
theorem witness_tripHot : ¬((∀ x ∈ ([1441] : List Int), x ≤ 1440)) := by decide
/-- A hold for a boundary, and the PLL of die 3 out of lock. -/
def heldBy : State := { held with drn := { held.drn with held := true, votes := [⟨8, 0, 0xFF⟩] } }
def relocking : State := { held with clk := { held.clk with stopped := true, aligned := false, relock := [3] } }
theorem witness_pll : held.dev = .up ∧ (3 : Nat) < 4 ∧ held.clk.stopped = false ∧
    held.clk.wake = [] ∧ (up.jobSt = .held ↔ up.drn.votes ≠ []) ∧ relocking.clk.relock = [3] ∧ relocking.clk.stopped = true ∧
    (heldBy.jobSt = .held ↔ heldBy.drn.votes ≠ []) := by decide +kernel

/-- What a boot finds: everything good. -/
def goodBoot : BootInput := ⟨[], [], true, true, clean⟩
theorem witness_powerOn : State.reset.brd.stage = .closed ∧ State.reset.dev = .booting := by decide +kernel
theorem witness_restart : up.dev ≠ .off ∧ up.dev ≠ .booting ∧ up.jobSt = .empty ∧ up.rcv.parked = none ∧ up.pln.flash = [] ∧
    (inJob .running).jobSt = .running := by decide +kernel
/-- What a boot reaches after its records, its firmware and its images. -/
def booted : (State × Bool) × (State × Bool) × (State × Bool) :=
  let u := (State.reset.fresh .booting).bootRecord.bootFirmware goodBoot
  let v := u.1.readImages goodBoot
  (u, v, v.1.bootRecords goodBoot)
theorem witness_boot : State.reset.brd.ref25 = true ∧ booted.1.2 = true ∧ booted.2.1.2 = true ∧ booted.2.2.2 = true ∧
    (booted.2.2.1.powerCompute clean).dev ≠ .failed := by decide +kernel
theorem witness_bootNoSlot :
    (((({ State.reset with nv := { Nv.reset with copies := [] } } : State).fresh .booting).bootRecord.bootFirmware goodBoot)).2 = false ∧
    ({ State.reset with brd := { Board.reset with ref25 := false } } : State).brd.ref25 = false := by decide +kernel

/-- A firmware payload of a higher SVN that the checks pass. -/
def fw : FwPayload := ⟨2, 1, 0, 0, [], [], true, true⟩
theorem witness_update : up.dev ≠ .off ∧ up.pln.recov = false ∧ up.updating = false ∧ up.pln.updLen.toNat ≤ 0x2000000 ∧ up.fwFault fw = none ∧
    up.pln.updLen.toNat ≤ 0x40000 := by decide +kernel
/-- A running firmware of SVN 1 in a good slot above the floor. -/
def raised : State := { up with pln := { Pln.reset with fwSvn := 1 } }
theorem witness_floor : (raised.fwSlot raised.pln.slot).st = .good ∧ raised.fus.svnFloor < raised.pln.fwSvn := by decide +kernel
/-- A flash write in progress. -/
def updating (u : Upd) : State := { up with pln := { Pln.reset with flash := [u] } }
theorem witness_flash : (updating (.slot 1 fw)).pln.flash = [.slot 1 fw] ∧ (updating (.slot 1 fw)).updating = true ∧ up.nv.copies.length = 8 ∧
    (1 : Nat) < up.nv.slots.length ∧ (updating (.own 4 (.attest 256))).updating = false := by decide +kernel
theorem witness_quote : up.pln.qSt ≠ 1 ∧ (List.replicate 32 (7 : Byte)).length = 32 := by decide +kernel

theorem witness_latch : up.pairs.lookup 0x500000 = some 0 ∧ up.served 0x500000 = true ∧
    ({ up with latch := [(0x500004, 9)] } : State).latch.lookup 0x500004 = some 9 ∧ up.served 0x500014 = true ∧ up.served 0x300020 = true := by
  decide +kernel
theorem witness_mgmt : up.dev ≠ .off ∧ up.cut .i3c = false ∧ up.cut .smbus = false ∧ up.served 0x300000 = true ∧ up.pci.stuck.length = 4 ∧
    ({ up with pci := { Pci.reset with stuck := [true, false, false, true] } } : State).cut .i3c = true ∧
    ({ up with pci := { Pci.reset with stuck := [true, false, false, true] } } : State).cut .smbus = true := by decide +kernel
theorem witness_pcie : up.dev = .up ∧ up.pwr.off = false ∧ (16 : BitVec 5).toNat ∈ [1, 2, 4, 8, 16] ∧ (6 : BitVec 4).toNat ≤ 6 ∧
    (inJob .running).jobSt ≠ .empty := by decide +kernel
/-- Page 5 is the host's. -/
def hostPaged : State := { up with pat := { Table.empty with cur := [(5, 0x8400)] } }
theorem witness_bar2 : 5 * pageSize + 8 ≤ 2 ^ hostPaged.pci.b2log2 ∧ (hostPaged.b2base + 5 * pageSize) % pageSize + 8 ≤ pageSize ∧
    hostPaged.live = false ∧ hostPaged.hostPage ((hostPaged.b2base + 5 * pageSize) / pageSize) = true ∧
    bitAt (sparse hostPaged.pat.cur 5) 9 = false ∧ hostPaged.guarded 5 = false ∧ hostPaged.hostPage 6 = false := by decide +kernel

/-- The input stage in state `x`. -/
def staged (x : Stage) : State := { up with brd := { Board.reset with stage := x } }
theorem witness_stage : (staged .off).brd.stage = .off ∧ (staged .charging).brd.stage = .charging ∧ (staged .closed).brd.stage = .closed ∧
    (staged .latched).brd.stage = .latched ∧ 75000 < (75001 : Nat) ∧ (3799 : Nat) < 3800 ∧ 6200 < (6201 : Nat) := by decide +kernel
theorem witness_aux : up.brd.limit.getD (auxIndex .v3p3) false = false ∧
    ({ up with brd := { Board.reset with limit := List.replicate 5 true } } : State).brd.limit.getD (auxIndex .v3p3) false = true := by decide +kernel
theorem witness_sensors : up.brd.tinSt = 0 ∧ up.brd.toutSt = 0 ∧
    ({ up with brd := { Board.reset with tinSt := 2, toutSt := 3 } } : State).brd.tinSt ≠ 0 := by decide +kernel
/-- A dry leak loop after `n` wet readings. -/
def wet (n : Nat) : State := { up with brd := { Board.reset with wetRun := n } }
theorem witness_leak : (wet 2).dev = .up ∧ (wet 2).pwr.off = false ∧ (wet 2).pwr.trip = 0 ∧ (wet 2).brd.leak = 0 ∧ 2 ≤ (wet 2).brd.wetRun ∧
    (wet 1).brd.wetRun < 2 ∧ (5000 : Nat) < 5001 ∧ (50000 : Nat) ≤ 50000 ∧ (50000 : Nat) < 50001 := by decide +kernel

/-! ### Witnesses: refused updates, host pages, the board's other states -/

/-- A line that the patrol finds below the threshold, and at it. -/
theorem witness_patrolBad : ({ up with pwr := { Pwr.reset with off := true } } : State).pwr.off = true ∧ up.cfg 0x0507 ≠ 1 ∧
    (addHalf (up.pci.cor.getD 0 0) 1).toNat % max 1 (up.cfg 0x0507) ≠ 0 ∧
    (addHalf ((4095 : Half)) 1).toNat % max 1 (up.cfg 0x0507) = 0 := by decide +kernel
theorem witness_pllFails : 3 ≤ ([(0, 1), (1, 1), (2, 1)] : List (Nat × Nat)).length ∧ held.dev ≠ .off ∧ held.dev ≠ .booting ∧ held.clk.relock = [] := by
  decide +kernel
theorem witness_bootUnequal : ({ State.reset with fus := { Fused.reset with cdStep := [(0x42, 0x31), (0, 0), (0x42, 0x31), (0x42, 0x31)] } } : State).brd.ref25 = true ∧
    (({ State.reset with fus := { Fused.reset with cdStep := [(0x42, 0x31), (0, 0), (0x42, 0x31), (0x42, 0x31)] } } : State).bootRecords goodBoot).2 = false := by
  decide +kernel
/-- Recovery mode. -/
def recovery : State := { up with pln := { Pln.reset with recov := true } }
/-- An update source that is too long. -/
def tooLong : State := { up with pln := { Pln.reset with updLen := 0x2000001 } }
/-- A user image of one field, the runtime cap's limit. -/
def userImg : List Byte := leBytes 2 1 ++ [1, 0] ++ leBytes 2 0 ++ List.replicate 10 0
theorem witness_updates : recovery.pln.recov = true ∧ recovery.updating = false ∧ recovery.fwFault fw = none ∧ recovery.dev ≠ .off ∧ recovery.dev ≠ .booting ∧
    0x2000000 < tooLong.pln.updLen.toNat ∧ 0x40000 < tooLong.pln.updLen.toNat ∧ tooLong.pln.recov = false ∧ HostRead.abort ≠ .ok ∧
    (up.fwFault { fw with ecdsaOk := false }).isSome = true ∧ (up.userImage userImg).isLeft = true ∧ (up.userImage []).isLeft = false ∧
    ¬((up.fwSlot up.pln.slot).st = .good ∧ up.fus.svnFloor < up.pln.fwSvn) := by decide +kernel
theorem witness_quoteBusy : ({ up with pln := { Pln.reset with qSt := 1 } } : State).pln.qSt = 1 ∧ up.dev ≠ .off ∧ up.dev ≠ .booting ∧ up.pln.recov = false := by
  decide +kernel

theorem witness_readPhase : ({ up with dev := .recovering } : State).dev = .recovering ∧ (0x300022 : Nat) / 4 * 4 ≠ 0x501014 := by decide
theorem witness_reads : up.pairs.lookup (0x300022 / 4 * 4) = none ∧ (0x300022 : Nat) % 4 + 2 ≤ 4 ∧ up.served 0x200004 = true ∧
    ((0 : Word) - up.evt.tail).toNat ≤ (up.evt.head - up.evt.tail).toNat ∧ recovery.served 0x300020 = false ∧ up.served 0x7E0000 = true ∧
    up.served 0x501010 = true ∧ (0x1BF0000 : Nat) < 0x1000000 + 0x10000 * up.nCores ∧ 0x1000000 + 0x10000 * up.nCores ≤ 0x1C00000 := by decide +kernel
theorem witness_pullUps : ({ up with brd := { Board.reset with limit := [false, false, false, false, true] } } : State).cut .i3c = true ∧
    up.pci.stuck.getD (lineOf .smbus true) false = false ∧
    ({ up with pci := { Pci.reset with stuck := [true, false, false, true] } } : State).pci.stuck.getD (lineOf .smbus true) false = true := by
  decide +kernel
/-- A host page with a line that the patrol found bad, another that is the device's, and one protected by an epoch. -/
def hostBad : State := { hostPaged with badLines := [5 * pageSize + 64] }
def hostGuarded (stage : Bool) : State :=
  { hostPaged with
    mqt := { Mqt.reset with epoch := some { epochOf [] false with pages := [5] } }, wp := [5]
    img := if stage then up.img else [] }
theorem witness_bar2Bad : hostBad.badLines = [5 * pageSize + 64] ∧ (∀ k ∈ hostBad.mqt.ctl, k = none) ∧ hostBad.b2base + 5 * pageSize + 60 < 5 * pageSize + 128 ∧
    5 * pageSize + 64 < hostBad.b2base + 5 * pageSize + 60 + 8 ∧ hostBad.hostPage 5 = true ∧ (hostGuarded true).guarded 5 = true ∧
    (hostGuarded true).live = false ∧ (hostGuarded true).hostPage 5 = true ∧ bitAt (sparse (hostGuarded true).pat.cur 5) 9 = false ∧
    (hostGuarded true).freeStage { epochOf [] false with pages := [5] } 0 ≠ none ∧
    (hostGuarded false).freeStage { epochOf [] false with pages := [5] } 0 = none ∧ (hostGuarded true).pwr.off = false := by decide +kernel
theorem witness_d3hot : (parkedSo true false).jobSt = .empty ∧ (parkedSo true false).rcv.parked.isSome = true ∧ (parkedSo true false).dev = .up ∧
    (parkedSo true false).pwr.off = false := by decide +kernel
theorem witness_leakBands : (100 : Nat) ≤ 100 ∧ (5000 : Nat) ≤ 5000 ∧ (5000 : Nat) < 5001 ∧ (7999 : Nat) < 8000 ∧ (12000 : Nat) ≤ 12000 ∧ (12000 : Nat) < 12001 ∧
    ({ up with brd := { Board.reset with leak := 2 } } : State).brd.leak = 2 ∧ (staged .reversed).brd.stage = .reversed := by decide

/-! ### Words of the stream's commands, written out from R214 and R218 -/

/-- A command of 32 words whose last words are zero. -/
def words (l : List Word) : List Word := l ++ List.replicate (32 - l.length) 0
/-- What a command's words decode to; the field at which they are none. -/
def cmdOf (l : List Word) : Option Cmd := (decodeCmd (words l)).toOption
def badField (l : List Word) : Option FieldRef := match decodeCmd (words l) with | .ok _ => none | .error f => some f
/-- The example of R219. -/
theorem test_word_mma : cmdOf [0x01051100, 0x000003E8, 0x00000FFF, 0x74740000, 0x40007F7F, 0x00001000, 0, 0x00100000, 0x00040000,
      0x00140000, 0, 0x00012A40] =
    some (.mma ⟨⟨5, 17, false, 1000, 0, 0xFFF⟩, 0x74, 0x74, 0, 0, false, true, false, 127, 127, 4096, 0, 0x100000, 0x40000, 0x140000, 0, 76352, 0, 0, 0⟩) := by
  decide +kernel
/-- QNT 0x11: two rows of three columns into FB 0x10 with stochastic rounding, ROT 2, SSRC 1 and SFMT 2. -/
theorem test_word_qnt : cmdOf [0x11030180, 0x0000000A, 0x00000FFF, 0x1000, 0x00010002, 0x2000, 0x3000, 0x1000A220, 7, 0x4000, 0x5000, 8, 9] =
    some (.qnt ⟨⟨3, 1, true, 10, 0, 0xFFF⟩, 0x1000, 1, 2, 0x2000, 0x3000, 0x10, 0, true, false, 2, false, 1, false, 2, 7, 0x4000, 0x5000, 8, 9⟩) := by
  decide +kernel
/-- VRED 0x18: OP 3 by columns. -/
theorem test_word_vred : cmdOf [0x18030000, 0x0000000A, 0x00000FFF, 0x1000, 0x1800, 0x00010002, 0x2000, 0x00052380] =
    some (.vred ⟨⟨3, 0, false, 10, 0, 0xFFF⟩, 0x1000, 0x1800, 1, 2, 0x2000, 0, 5, 2, 3, true⟩) := by decide +kernel
/-- MOVE 0x20: host to HBM through SHD, SHARD set, two rows, two tags from 4. -/
theorem test_word_move : cmdOf [0x20030000, 0x0000000A, 0x00050001, 0x68100000, 0x40, 1, 0, 0x80, 0x80000000, 0, 0x100, 0x140,
      0x00010000, 0xC0, 0x00040001, 9] =
    some (.move ⟨⟨3, 0, false, 10, 5, 1⟩, 3, 2, 0, 0, true, 0x100000040, Ext.zero, 0x8000000000000080, Ext.zero, 0x100, 0x140, 1, 0xC0, ⟨4, 1⟩, 9⟩) := by
  decide +kernel
/-- WAIT 0x30 on counter 3. -/
theorem test_word_wait : cmdOf [0x30FF0000, 0x0000000A, 0x00000FFF, 3, 7] =
    some (.wait ⟨⟨0xFF, 0, false, 10, 0, 0xFFF⟩, 3, 7⟩) := by decide +kernel
/-- DECIDE 0x34. -/
theorem test_word_decide : cmdOf [0x34FF0000, 0x0000000A, 0x00060FFF, 0xFFFF, 0x1000, 3] =
    some (.decide ⟨⟨0xFF, 0, false, 10, 6, 0xFFF⟩, 0xFFFF, 0x1000, 3⟩) := by decide +kernel
/-- MUTE 0x3F with MODE 1. -/
theorem test_word_mute : cmdOf [0x3FFF0000, 0x0000000A, 0x00000FFF, 1] =
    some (.mute ⟨0xFF, 0, false, 10, 0, 0xFFF⟩ true) := by decide +kernel
/-- Opcode 0x39 is reserved. -/
theorem test_word_reserved : badField [0x39FF0000] = some (fieldAt 0 31 24) := by decide +kernel
/-- W0 [6:0] is reserved. -/
theorem test_word_reservedBit : badField [0x30FF0001, 0, 0xFFF] = some (fieldAt 0 6 0) := by decide +kernel

/-! ### Commands that no sender can have sent -/

theorem test_ill_obs : Instr.wf (.commandCompletion [.residue ⟨false, 0, 65536, 0, .chosen 1 1⟩]) = false ∧
    Instr.wf (.commandCompletion [.rowExit 128 0]) = false ∧ Instr.wf (.commandCompletion [.sram 192 0 false false]) = false ∧
    Instr.wf (.commandCompletion [.hbm 0xD800000000 false]) = false := by decide +kernel
theorem test_ill_lengths : Instr.wf (.segmentDescriptorFetch []) = false ∧ Instr.wf (.segmentDescriptorReread []) = false ∧
    Instr.wf (.commandSegmentFetch [0]) = false ∧ Instr.wf (.chunkArrival 0 0 [] 0) = false ∧ Instr.wf (.jobLoadBegin []) = false ∧
    Instr.wf (.dataPacketReceive ⟨{ pkt 0 with len := 1 }, ⟨0, 0, 0⟩⟩) = false ∧ Instr.wf (.dataPacketReceive ⟨pkt 0, ⟨4, 0, 0⟩⟩) = false ∧
    Instr.wf (.quoteRequest false [] 0 0) = false ∧
    Instr.wf (.addressResolutionRequest 0 []) = false := by decide +kernel
theorem test_ill_votes : Instr.wf (.holdBegin []) = false ∧ Instr.wf (.holdBegin [⟨12, 0, 0⟩]) = false := by decide +kernel
theorem test_ill_ranges : Instr.wf (.firstTouchCopy 442368) = false ∧ Instr.wf (.drainPageComplete 442368) = false ∧
    Instr.wf (.jobLoadComplete ⟨[(442368, 0)], 0, [], 0⟩) = false ∧ Instr.wf (.epochFail 0) = false ∧ Instr.wf (.epochFail 7) = false ∧
    Instr.wf (.hbmRefresh 12 0) = false ∧ Instr.wf (.hbmPatrolScrub 0xD800000000 none) = false ∧ Instr.wf (.bellowsTick (tick 0 0)) = false ∧
    Instr.wf (.patinaSample (List.replicate 193 0)) = false ∧ Instr.wf (.relockTimeout 4) = false ∧ Instr.wf (.pllLockLoss 4 none) = false ∧
    Instr.wf (.ethLinkDown 4) = false ∧ Instr.wf (.msixUnmask 7) = false ∧ Instr.wf (.bar2Resize 29) = false ∧
    Instr.wf (.latchingRead ⟨0x3FFFFFD, 4⟩) = false ∧ Instr.wf (.latchingRead ⟨0, 0⟩) = false ∧ Instr.wf (.registerWrite 0x3FFFFFC 8 0) = false ∧
    Instr.wf (.pcieLinkTrained 0 16 ⟨false, true, true, 128, 512, false⟩) = false ∧
    Instr.wf (.pcieLinkTrained 6 3 ⟨false, true, true, 128, 512, false⟩) = false ∧ Instr.wf (.ppsEdge ⟨5, 6⟩) = false ∧ Instr.wf (.ptpMessage ⟨24, 0, 4⟩) = false := by decide +kernel
theorem test_ill_resets : Instr.wf (.computeReset { clean with alignFails := [(4, 0)] }) = false ∧
    Instr.wf (.computeReset { clean with katCores := [(192, 0)] }) = false ∧ Instr.wf (.pwrTripClr 0 { clean with katSpares := [(4, 0)] }) = false ∧
    Instr.wf (.powerOn { goodBoot with badCopies := [(3, 1)] }) = false ∧ Instr.wf (.moduleRestart 0 { goodBoot with badCopies := [(0, 9)] }) = false := by
  decide +kernel
theorem test_well_formed : Instr.wf (.computeReset clean) = true ∧ Instr.wf (.holdBegin [⟨11, 3, 0xFF⟩]) = true ∧
    Instr.wf (.dataPacketReceive ⟨{ pkt 0 with payload := [1], len := 1 }, ⟨3, 0, 0⟩⟩) = true := by decide +kernel

/-! ### One step -/

/-- A memory in canonical form and a step. -/
theorem witness_memories : State.reset.memsOk = true ∧ step State.reset = .next State.reset := ⟨by decide +kernel, rfl⟩
theorem test_step_idle : step up = .next up := rfl
theorem test_step_front : step { up with pending := [.slopeIntervalEnd, .d3hotEntry] } = exec .slopeIntervalEnd { up with pending := [.d3hotEntry] } := rfl
theorem test_no_table_bits : decodeTableWord 32 1 = none ∧ up.withFetchWord 32 1 = up := ⟨rfl, rfl⟩
/-- R219: 0x8000_0000 after VALUE the condition fails, one before it still holds. -/
theorem test_wait_wraps : ((0x7FFFFFFF : Word) - 0).toNat < 2 ^ 31 ∧ 2 ^ 31 ≤ ((0x80000000 : Word) - 0).toNat := by decide

end Sys2Proof.Tests
end

namespace Sys2Proof.Machine

/-! ### The switch of the Cast (R298) -/

/-- UPDATE inverts SIDE of a page exactly where TOUCH does not hold it. -/
theorem Cast.sideOf_switch (c : Cast) (p : Nat) : c.switch.sideOf p = xor (c.sideOf p) (!decide (p ∈ c.touch)) := by
  have hmem : p ∈ c.switch.side ↔ (p ∈ c.side ∧ p ∉ c.touch) ∨ (p ∈ c.touch ∧ p ∉ c.side) := by
    simp [Cast.switch]
  have hinv : c.switch.inv = !c.inv := rfl
  by_cases hs : p ∈ c.side <;> by_cases ht : p ∈ c.touch <;> simp [Cast.sideOf, hmem, hinv, hs, ht]

/-- The Cast after the COMMIT of a step whose outcome is `skip` (R298). -/
def Cast.after (c : Cast) (skip : Bool) : Cast := if skip then c else c.switch

/-- SKIP leaves the Cast as it is; UPDATE inverts P and counts the switch. -/
theorem Cast.after_eq (c : Cast) (skip : Bool) : (c.after skip).p = xor c.p (!skip) ∧
    (∀ p, (c.after skip).sideOf p = xor (c.sideOf p) (!skip && !decide (p ∈ c.touch))) ∧
    (c.after skip).nswitch = if skip then c.nswitch else c.nswitch + 1 := by
  cases skip with
  | false => exact ⟨by show (!c.p) = _; simp, c.sideOf_switch, rfl⟩
  | true => exact ⟨by show c.p = _; simp, fun p => by show c.sideOf p = _; simp, rfl⟩

/-! ### What the end of a job keeps -/

/-- The COMMITs of a job that have completed, and what it has in flight. -/
def Job.tally (j : Job) : Nat × List Flight := (j.commits, j.flights)

namespace State

theorem pushRecs_tally (s : State) (h : RecHdr) (ps : List (List JEntry)) : (s.pushRecs h ps).job.tally = s.job.tally := by
  unfold State.pushRecs
  dsimp only
  refine foldl_rel (fun x y : State × Nat => y.1.job.tally = x.1.job.tally) (fun _ => rfl) (fun _ _ _ h k => k.trans h)
    _ ?_ ps (s, 0)
  intro x es
  rfl

theorem flushJrn_tally (n : Nat) (s : State) : (State.flushJrn n s).job.tally = s.job.tally := by
  induction n generalizing s with
  | zero => rfl
  | succ n ih =>
    unfold State.flushJrn
    split
    · rfl
    · split
      · dsimp only
        rw [ih, irq_job, keepRecord_eq, stores_eq]
        rfl
      · rfl

theorem compareRef_tally (s : State) (x : Option Nat) (h : RecHdr) (es : List JEntry) :
    (s.compareRef x h es).job.tally = s.job.tally := by
  unfold State.compareRef
  dsimp only
  split
  · rfl
  · split
    · rw [ev_job]
    · split
      · rfl
      · split
        · simp only [noteFault_job, ev_job]; rfl
        · rw [ev_job]

theorem closeStep_tally (s : State) (c : Bool) (b n : Nat) (x : Option Nat) :
    (s.closeStep c b n x).job.tally = s.job.tally := by
  unfold State.closeStep
  split
  · rfl
  · dsimp only
    rw [compareRef_tally]
    exact pushRecs_tally s _ _

theorem endRecords_tally (s : State) (c : Bool) (n : Nat) : (s.endRecords c n).job.tally = s.job.tally := by
  unfold State.endRecords State.journalOut State.pushEnd
  rw [flushJrn_tally, pushRecs_tally, closeStep_tally]

theorem abandon_tally (s : State) : s.abandon.job.tally = (s.job.commits, []) := by
  have hmix : ∀ (ws : List Wr) (u : State), (ws.foldl State.mixStore u).job = u.job :=
    foldl_rel (fun u v : State => v.job = u.job) (fun _ => rfl) (fun _ _ _ h k => k.trans h) _
      (fun u w => by rw [mixStore_eq])
  have hall := foldl_rel (fun u v : State => v.job = u.job) (fun _ => rfl) (fun _ _ _ h k => k.trans h)
    (fun (t : State) f => (t.couldWrite f).1.foldl State.mixStore (t.couldWrite f).2)
    (fun u f => by rw [hmix, couldWrite_eq]) (s.job.flights.filter (fun f => f.issued)) s
  unfold State.abandon Job.tally
  dsimp only
  rw [hall]

theorem dropBoundary_tally (s : State) : s.dropBoundary.job.tally = s.job.tally := by
  unfold State.dropBoundary
  split <;> rfl

end State

/-! ### What the steps of a boundary leave alone -/

/-- The part of the state on which the run of a job without commands in flight turns: the Cast, the job, the device's
condition, the beat, an awaited PHASE effect, the Duo, the configuration and the replay. -/
def State.runView (s : State) := (s.cast, s.job, s.dev, s.drn.beat, s.pwr.phase, s.duo, s.img, s.rcv.replayTo)

namespace State

theorem job_of_runView {s t : State} (h : t.runView = s.runView) : t.job = s.job := congrArg (·.2.1) h

@[simp] theorem irq_runView (s : State) (v : Nat) : (s.irq v).runView = s.runView := by rw [irq_eq]; rfl
@[simp] theorem event_runView (s : State) (c l d : Nat) (f : FieldRef) (i a b : DWord) :
    (s.event c l d f i a b).runView = s.runView := by rw [event_eq]; rfl
@[simp] theorem ev_runView (s : State) (c a b : Nat) : (s.ev c a b).runView = s.runView := event_runView ..
@[simp] theorem setJob_runView (s : State) (j : JobSt) : (s.setJob j).runView = s.runView := by rw [setJob_eq]; rfl
@[simp] theorem store_runView (s : State) (w : Wr) : (s.store w).runView = s.runView := by rw [store_eq]; rfl
@[simp] theorem leaveHold_runView (s : State) : s.leaveHold.runView = s.runView := by
  unfold State.leaveHold; rw [setJob_runView]; rfl

/-- Held cycles mark commands in flight: without any, they leave the job as it is. -/
theorem heldCycles_runView {s : State} (h : s.job.flights = []) (n : Nat) : (s.heldCycles n).runView = s.runView := by
  have hj : (s.heldCycles n).job = s.job := by
    unfold State.heldCycles
    simp only [h, List.map_nil]
    rw [← h]
  have hp : (s.heldCycles n).pwr.phase = s.pwr.phase := by
    show (s.pwr.spend s.clk.mhz s.dMax 0 n).phase = _
    rw [spend_eq]
  unfold State.runView
  rw [hj, hp]
  rfl

theorem passHeld_runView {s : State} (h : s.job.flights = []) (n : Nat) : (s.passHeld n).runView = s.runView := by
  unfold State.passHeld
  dsimp only
  split
  · have h1 : ∀ k, (s.heldCycles k).job.flights = [] := fun k => by rw [job_of_runView (heldCycles_runView h k), h]
    rw [heldCycles_runView (by rw [event_job, h1]), event_runView, heldCycles_runView h]
  · exact heldCycles_runView h n

theorem enterHold_runView {s : State} (h : s.job.flights = []) (v : List Vote) : (s.enterHold v).runView = s.runView := by
  unfold State.enterHold
  split
  · rfl
  · dsimp only
    split
    · rw [setJob_runView]; rfl
    · rw [passHeld_runView (by rw [setJob_job]; exact h), setJob_runView]; rfl

theorem ownHold_runView {s : State} (h : s.job.flights = []) (c n : Nat) : (s.ownHold c n).runView = s.runView := by
  unfold State.ownHold
  split
  · rfl
  · split
    · have he := enterHold_runView h [⟨BitVec.ofNat 4 c, 0, 0xFF⟩]
      rw [leaveHold_runView, passHeld_runView (by rw [job_of_runView he, h]), he]
    · rfl

theorem bellowsHold_runView {s : State} (h : s.job.flights = []) : s.bellowsHold.runView = s.runView := by
  unfold State.bellowsHold
  split
  · exact enterHold_runView h _
  · rfl

theorem toGrid_runView {s : State} (h : s.job.flights = []) : s.toGrid.runView = s.runView := by
  unfold State.toGrid
  split
  · exact passHeld_runView (s := { s with free := s.free + 1 }) h _
  · rfl

/-! The actions of charges that end no job (R382, R450). -/

@[simp] theorem trimEvent_runView (s : State) (c l n a : Nat) : (s.trimEvent c l n a).runView = s.runView := event_runView ..
@[simp] theorem patinaEvent_runView (s : State) (l c : Nat) : (s.patinaEvent l c).runView = s.runView := event_runView ..
@[simp] theorem markGuilt_runView (s : State) (l a : Nat) : (s.markGuilt l a).runView = s.runView := rfl
@[simp] theorem leaveActions_runView (s : State) (l : Nat) (as : List Nat) : (s.leaveActions l as).runView = s.runView := rfl
@[simp] theorem saveGuilt_runView (s : State) : s.saveGuilt.runView = s.runView := rfl

theorem raiseTrim_runView {s : State} (h : s.job.flights = []) (l : Nat) : (s.raiseTrim l).runView = s.runView := by
  have hb := bellowsHold_runView (s := { s with pwr := { s.pwr with trims := upd s.pwr.trims l (fun n => min 8 (n + 1)) } }) h
  unfold State.raiseTrim
  dsimp only
  split
  · rw [passHeld_runView (by rw [job_of_runView hb]; exact h), hb]; rfl
  · rw [hb]; rfl

@[simp] theorem retireTo_runView (s : State) (l n : Nat) (c : Bool) : (s.retireTo l n c).runView = s.runView := by
  unfold State.retireTo
  rw [event_runView]
  cases c <;> rfl

@[simp] theorem refuseRetire_runView (s : State) (l : Nat) : (s.refuseRetire l).runView = s.runView := by
  unfold State.refuseRetire
  dsimp only
  split <;> simp

/-! The copies of tables in the SAVE areas (R389). -/

@[simp] theorem putRange_runView (s : State) (a b : Nat) (ws : List (Nat × List Byte)) : (s.putRange a b ws).runView = s.runView := rfl

@[simp] theorem copyPat_runView (s : State) : s.copyPat.runView = s.runView :=
  foldl_rel (fun u v : State => v.runView = u.runView) (fun _ => rfl) (fun _ _ _ h k => k.trans h) _
    (fun _ _ => putRange_runView ..) _ _

@[simp] theorem copyAdt_runView (s : State) : s.copyAdt.runView = s.runView := putRange_runView ..
@[simp] theorem copyLuts_runView (s : State) (l : Nat) : (s.copyLuts l).runView = s.runView := putRange_runView ..

end State

/-! ### What the steps of a boundary keep -/

/-- What every step of a boundary keeps of the state `r` in which it began, no command being in flight: the Cast up to
TOUCH and the open load, the count of COMMITs, and, while the device is up, all on which the run of the job turns but
the records of the job and the boundary itself. -/
structure Stays (r t : State) : Prop where
  cast : t.cast = { r.cast with touch := t.cast.touch, loadOpen := t.cast.loadOpen, badHdr := t.cast.badHdr }
  tally : t.job.tally = (r.job.commits, [])
  job : t.dev = .up → t.job = { r.job with
    jrn := t.job.jrn, bound := t.job.bound, boundIdx := t.job.boundIdx, crProd := t.job.crProd, crPend := t.job.crPend }
  rest : t.dev = .up → r.dev = .up ∧ t.drn.beat = r.drn.beat ∧ t.pwr.phase = r.pwr.phase ∧ t.duo = r.duo ∧ t.img = r.img ∧
    t.rcv.replayTo = r.rcv.replayTo

namespace Stays
variable {r s t : State}

theorem refl (h : r.job.flights = []) : Stays r r :=
  ⟨rfl, by rw [Job.tally, h], fun _ => rfl, fun h => ⟨h, rfl, rfl, rfl, rfl, rfl⟩⟩

theorem flights (h : Stays r t) : t.job.flights = [] := congrArg Prod.snd h.tally

theorem commits (h : Stays r t) : t.job.commits = r.job.commits := congrArg Prod.fst h.tally

theorem trans (h : Stays r s) (k : Stays s t) : Stays r t := by
  refine ⟨?_, ?_, fun hd => ?_, fun hd => ?_⟩
  · rw [k.cast, h.cast]
  · rw [k.tally, h.commits]
  · rw [k.job hd, h.job (k.rest hd).1]
  · obtain ⟨hs, hb, hp, hu, hi, hq⟩ := k.rest hd
    rw [hb, hp, hu, hi, hq]
    exact h.rest hs

theorem congr (h : Stays r s) (e : t.runView = s.runView) : Stays r t := by
  obtain ⟨hc, ht, hj, hr⟩ := h
  simp only [State.runView, Prod.mk.injEq] at e
  obtain ⟨ec, ej, ed, eb, ep, eu, ei, er⟩ := e
  refine ⟨by rw [ec]; exact hc, by rw [ej]; exact ht, fun hd => ?_, fun hd => ?_⟩
  · rw [ej]; exact hj (ed ▸ hd)
  · rw [eb, ep, eu, ei, er]; exact hr (ed ▸ hd)

theorem foldl {α : Type} {g : State → α → State} (hg : ∀ u a, Stays r u → Stays r (g u a)) (l : List α) (h : Stays r s) :
    Stays r (l.foldl g s) := by
  induction l generalizing s with
  | nil => exact h
  | cons a l ih => exact ih (hg s a h)

/-- A job that is FAULTED at once keeps its count of COMMITs and, up to TOUCH and the open load, the Cast. -/
theorem faultNow_keeps (s : State) : s.faultNow.job.tally = (s.job.commits, []) ∧
    s.faultNow.cast = { s.cast with touch := s.faultNow.cast.touch, loadOpen := s.faultNow.cast.loadOpen, badHdr := s.faultNow.cast.badHdr } := by
  have hjob : s.faultNow.job.tally = s.abandon.dropBoundary.job.tally := by
    unfold State.faultNow
    dsimp only
    split
    · rw [State.reject_job, State.setJob_job, State.endRecords_tally]; rfl
    · rw [State.setJob_job, State.endRecords_tally]; rfl
  have hcast : s.faultNow.cast = s.abandon.dropBoundary.cast := by
    unfold State.faultNow
    dsimp only
    split
    · rw [State.reject_cast, State.setJob_cast, State.endRecords_eq]
    · rw [State.setJob_cast, State.endRecords_eq]
  refine ⟨by rw [hjob, State.dropBoundary_tally, State.abandon_tally], ?_⟩
  rw [hcast]
  unfold State.dropBoundary
  split <;> rw [State.abandon_eq]

/-- The job of a device that stops keeps its count of COMMITs and, up to TOUCH and the open load, the Cast. -/
theorem killJob_keeps {s : State} (h : s.job.flights = []) : s.killJob.job.tally = (s.job.commits, []) ∧
    s.killJob.cast = { s.cast with touch := s.killJob.cast.touch, loadOpen := s.killJob.cast.loadOpen, badHdr := s.killJob.cast.badHdr } := by
  have hs : s.job.tally = (s.job.commits, []) := by rw [Job.tally, h]
  have hload : s.endLoad.job.tally = s.job.tally := by
    unfold State.endLoad
    dsimp only
    rw [State.setJob_job]
    split
    · unfold State.journalOut State.pushEnd
      rw [State.flushJrn_tally, State.pushRecs_tally]; rfl
    · rfl
  unfold State.killJob
  split
  case h_1 | h_2 => exact ⟨hload.trans hs, by rw [State.endLoad_eq]⟩
  case h_3 | h_4 | h_5 => exact faultNow_keeps s
  case h_6 => exact ⟨hs, rfl⟩

/-- A device that fails ends its job: the Cast and the count of COMMITs stand. -/
theorem fail (h : Stays r s) : Stays r s.fail := by
  have hd : s.fail.dev = .failed := by
    unfold State.fail; rw [State.killJob_eq]; exact State.setDev_dev s .failed
  obtain ⟨ht, hc⟩ := killJob_keeps (s := s.setDev .failed) (by rw [State.setDev_job]; exact h.flights)
  refine ⟨?_, ?_, fun hu => ?_, fun hu => ?_⟩
  · refine hc.trans ?_
    rw [State.setDev_cast, h.cast]
    rfl
  · refine ht.trans ?_
    rw [State.setDev_job, h.commits]
  all_goals rw [hd] at hu; exact absurd hu (by decide)

/-- An entry enters the journal of a job that replays nothing. -/
theorem jAdd (hr : r.rcv.replayTo = none) (h : Stays r s) (e : JEntry) : Stays r (s.jAdd e) := by
  have hd : (s.jAdd e).dev = s.dev := by rw [State.jAdd_eq]
  have hc : (s.jAdd e).cast = s.cast := by rw [State.jAdd_eq]
  have ht : (s.jAdd e).job.tally = (r.job.commits, []) := by
    have hf := h.flights
    have hk := h.commits
    unfold State.jAdd State.checkKept
    dsimp only
    split
    · split
      · exact h.tally
      · simp [Job.tally, hf, hk]
    · exact h.tally
  refine ⟨by rw [hc]; exact h.cast, ht, fun hu => ?_, fun hu => ?_⟩
  · obtain ⟨-, -, -, -, -, hq⟩ := h.rest (hd ▸ hu)
    rw [jAdd_fresh (hq.trans hr)]
    dsimp only
    rw [h.job (hd ▸ hu)]
  · rw [State.jAdd_eq]
    exact h.rest (hd ▸ hu)

/-! Actions of charges (R382, R383). -/

theorem stepClock (h : Stays r s) (c : Nat) : Stays r (s.stepClock c) := by
  unfold State.stepClock
  split
  · exact (h.congr (State.event_runView ..)).fail
  · exact h.congr ((State.ev_runView ..).trans rfl)

theorem alignTries (fs : List (Nat × Nat)) (k : Nat) (h : Stays r s) : Stays r (State.alignTries k fs s) := by
  induction fs generalizing k s with
  | nil => unfold State.alignTries; exact h.congr rfl
  | cons x l ih =>
    have h' : Stays r (s.ev 0x2060 (k + 1) (x.1 * 256 + x.2)) := h.congr (State.ev_runView ..)
    unfold State.alignTries
    dsimp only
    split
    · refine (h'.congr ?_).fail
      rw [State.ev_runView]
      rfl
    · exact ih (k + 1) h'

theorem align (h : Stays r s) (fs : List (Nat × Nat)) : Stays r (s.align fs) := h.alignTries fs 0

theorem lowerClock (h : Stays r s) (c : Nat) : Stays r (s.lowerClock c) := by
  unfold State.lowerClock
  split
  · exact h.stepClock c
  · have h1 := h.congr (State.bellowsHold_runView h.flights)
    have h2 := h1.congr (State.toGrid_runView h1.flights)
    exact ((h2.stepClock c).congr (t := (s.bellowsHold.toGrid.stepClock c).drawFails.2) rfl).align _

theorem retireOrSlow (h : Stays r s) (l : Nat) (c : Bool) : Stays r (s.retireOrSlow l c) := by
  unfold State.retireOrSlow
  split
  · exact h.congr (State.retireTo_runView ..)
  · exact (h.congr (State.refuseRetire_runView ..)).lowerClock l

theorem raiseTrim (h : Stays r s) (l : Nat) : Stays r (s.raiseTrim l) := h.congr (State.raiseTrim_runView h.flights l)

theorem applyAction (h : Stays r s) (l a : Nat) : Stays r (s.applyAction l a) := by
  unfold State.applyAction
  split
  · exact ((h.congr (State.trimEvent_runView ..)).raiseTrim l).congr (State.markGuilt_runView ..)
  · exact h.retireOrSlow l true
  · exact (h.raiseTrim l).congr (State.markGuilt_runView ..)
  · exact (h.congr (State.patinaEvent_runView ..)).retireOrSlow l false
  · exact h.retireOrSlow l false

theorem applyActions (h : Stays r s) : Stays r s.applyActions := by
  have hall := h.foldl (g := fun t l => ((t.dueActions l).foldl (fun u a => u.applyAction l a) t).leaveActions l [])
    (fun u l hu => (hu.foldl (fun v a hv => hv.applyAction l a) (u.dueActions l)).congr (State.leaveActions_runView ..))
    (List.range s.nCores)
  have release : ∀ u, Stays r u → Stays r (if u.jobSt = .held ∧ s.jobSt = .running then u.leaveHold else u) := by
    intro u hu
    split
    · exact hu.congr (State.leaveHold_runView u)
    · exact hu
  refine release _ ?_
  split
  · exact hall.congr (State.saveGuilt_runView _)
  · exact hall

theorem jRemap (hr : r.rcv.replayTo = none) (h : Stays r s) (e : JEntry) : Stays r (s.jRemap e) := by
  unfold State.jRemap
  split
  · exact h.jAdd hr e
  · split
    · refine ⟨h.cast, h.tally, fun hu => ?_, h.rest⟩
      dsimp only
      rw [h.job hu]
    · exact h

theorem switchRemap (hr : r.rcv.replayTo = none) (h : Stays r s) : Stays r s.switchRemap := by
  have entries : ∀ (u : State) (es : List JEntry) (k : Option Parked), Stays r u →
      Stays r { es.foldl State.jRemap u with rcv := { (es.foldl State.jRemap u).rcv with parked := k } } :=
    fun u es k hu => (hu.foldl (fun v e hv => hv.jRemap hr e) es).congr rfl
  unfold State.switchRemap
  split
  · exact h
  · exact entries _ _ _ (h.congr rfl)

theorem remapStep (hr : r.rcv.replayTo = none) (h : Stays r s) : Stays r s.remapStep := by
  have h1 := (h.congr (State.ownHold_runView h.flights 0xA (6400 * s.remap.pend.length))).applyActions
  exact (h1.congr (State.ownHold_runView h1.flights 0xA _)).switchRemap hr

/-! The switch of the tables and the boundary (R291, R313). -/

theorem landLuts_idle (h : s.job.flights = []) : s.landLuts = s := by
  unfold State.landLuts
  simp only [h, List.foldl_nil, List.filter_nil, List.flatMap_nil, State.stores, List.map_nil]
  rw [← h]

theorem ite_of {u v : State} {p : Prop} [Decidable p] (hu : Stays r u) (hv : Stays r u → Stays r v) : Stays r (if p then v else u) := by
  split
  · exact hv hu
  · exact hu

theorem switchTables (hr : r.rcv.replayTo = none) (h : Stays r s) (i : Nat) (w : Word) : Stays r (s.switchTables i w) := by
  unfold State.switchTables
  rw [landLuts_idle h.flights]
  refine ite_of ?_ (fun hu => hu.congr (State.irq_runView ..))
  refine Stays.foldl (fun u c hu => hu.jAdd hr _) _ ?_
  refine ite_of (ite_of ?_ (fun hu => hu.jAdd hr _)) (fun hu => hu.jAdd hr _)
  refine Stays.foldl (fun u c hu => hu.congr (State.copyLuts_runView ..)) _ ?_
  refine ite_of (ite_of ?_ (fun hu => hu.congr (State.copyPat_runView _))) (fun hu => hu.congr (State.copyAdt_runView _))
  exact h.congr rfl

theorem closeBoundary (h : Stays r s) : Stays r { s with
    cast := { s.cast with touch := [], loadOpen := false, badHdr := false }
    job := { s.job with bound := false, boundIdx := none } } := by
  refine ⟨?_, h.tally, fun hu => ?_, h.rest⟩
  · dsimp only
    rw [h.cast]
  · dsimp only
    rw [h.job hu]

theorem boundarySteps (hr : r.rcv.replayTo = none) (h : Stays r s) (i : Nat) (w : Word) : Stays r (s.boundarySteps (some i) w) :=
  ((h.switchTables hr i w).remapStep hr).closeBoundary

end Stays

/-! ### The run of a job without commands in flight -/

/-- Nothing of the job falls due at its beat but a batch boundary: no command is in flight, nothing stops it, its decoded
commands lie at later beats and so does the end of what the stream lets it reach. -/
structure State.Idle (w : State) : Prop where
  flights : w.job.flights = []
  kill : w.job.kill = none
  stop : w.job.stop = none
  stream : w.job.seg.over = none
  phase : w.pwr.phase = none
  duo : w.duoOn = false
  mis : w.duo.pendMis = none
  disp : ∀ d ∈ w.job.disp, w.drn.beat < w.plannedOf d
  limit : ∀ l, w.streamLimit = some l → w.drn.beat < l

section
variable {r w : State}

theorem firstDue_mem {l : List Due} {e : Due} (h : firstDue l = some e) : e ∈ l := by
  induction l generalizing e with
  | nil => simp [firstDue] at h
  | cons d l ih =>
    unfold firstDue at h
    split at h
    · simp_all
    · rename_i x hx
      simp only [Option.some.injEq] at h
      subst h
      split
      · simp
      · exact List.mem_cons_of_mem _ (ih hx)

/-- What the stream brings lies at later beats where its decoded commands do, and is one event at most. -/
theorem streamDue_later (ho : w.job.seg.over = none) (hd : ∀ d ∈ w.job.disp, w.drn.beat < w.plannedOf d) :
    w.streamDue = [] ∨ ∃ e, w.streamDue = [e] ∧ w.drn.beat < e.beat := by
  unfold State.streamDue
  dsimp only
  split
  · exact .inl rfl
  · cases hl : w.job.disp with
    | nil => simp [ho]
    | cons d l =>
      refine .inr ⟨_, rfl, ?_⟩
      have := hd d (by simp [hl])
      show w.drn.beat < max (w.plannedOf d) w.drn.beat
      omega

/-- An event of this beat comes before what the stream brings later. -/
theorem firstDue_append_later {l : List Due} {e : Due} (hl : l = [] ∨ ∃ x, l = [x] ∧ e.beat < x.beat) :
    firstDue (l ++ [e]) = some e ∧ firstDue (e :: l) = some e := by
  rcases hl with rfl | ⟨x, rfl, hx⟩
  · exact ⟨rfl, rfl⟩
  · have h1 : ¬ x.beat < e.beat := by omega
    have h2 : ¬ x.beat = e.beat := by omega
    simp [firstDue, Due.before, h1, h2, hx]

theorem nextDue_idle (h : w.Idle) :
    w.nextDue = firstDue (w.streamDue ++ if w.job.bound then [⟨w.drn.beat, 2, 0, .bound⟩] else []) := by
  unfold State.nextDue State.flightDues State.ownDues
  simp only [h.flights, h.kill, h.stop, h.phase, duoDue_off h.duo, List.filterMap_nil, Bool.false_eq_true, if_false,
    List.nil_append, List.append_nil]

/-- With no boundary due nothing falls due at this beat. -/
theorem nextDue_later (h : w.Idle) (hb : w.job.bound = false) (e : Due) (he : w.nextDue = some e) : w.drn.beat < e.beat := by
  rw [nextDue_idle h, hb, if_neg (by simp), List.append_nil] at he
  have hm := firstDue_mem he
  rcases streamDue_later h.stream h.disp with hs | ⟨x, hs, hx⟩ <;> rw [hs] at hm
  · simp at hm
  · rw [List.mem_singleton.1 hm]; exact hx

/-- A boundary that is due comes before everything else. -/
theorem nextDue_bound (h : w.Idle) (hb : w.job.bound = true) : w.nextDue = some ⟨w.drn.beat, 2, 0, .bound⟩ := by
  rw [nextDue_idle h, hb, if_pos rfl]
  exact (firstDue_append_later (e := ⟨w.drn.beat, 2, 0, .bound⟩) (streamDue_later h.stream h.disp)).1

/-- The end of a beat is reached where the beat stands. -/
theorem limit_idle (h : w.Idle) : optMin (w.goalBeat .beatEnd) w.beatLimit = some w.drn.beat := by
  have hd : w.duoLimit = none := by simp [State.duoLimit, h.duo, h.mis]
  have hs := h.limit
  unfold State.beatLimit
  rw [hd]
  cases hl : w.streamLimit with
  | none => rfl
  | some l =>
    have := hs l hl
    show some (min w.drn.beat l) = _
    congr 1; omega

theorem dueBeat_idle (h : w.Idle) (l : Nat) (hl : w.dueBeat .beatEnd = some l) : w.drn.beat < l := by
  have hf : w.flagLimit = none := by simp [State.flagLimit, h.flights]
  have hn : w.landingLimit = none := by simp [State.landingLimit, h.flights]
  unfold State.dueBeat at hl
  rw [hf, hn] at hl
  exact h.limit l hl

/-- A stopped job, or one with nothing due, stands at the end of its beat. -/
theorem run_beatEnd (n : Nat) (h : w.jobSt = .running → w.dev = .up → w.Idle ∧ w.job.bound = false) :
    State.run .beatEnd (n + 1) w = w := by
  by_cases hr : w.jobSt = .running ∧ w.dev = .up
  · obtain ⟨hi, hb⟩ := h hr.1 hr.2
    exact run_end (nextDue_later hi hb) (limit_idle hi) (Nat.le_refl _)
  · rw [State.run, if_pos]
    by_cases hj : w.jobSt = .running
    · exact .inr (.inl fun hd => hr ⟨hj, hd⟩)
    · exact .inl hj

/-- A boundary's steps leave an idle job idle as long as the device is up. -/
theorem Stays.idle (h : Stays r w) (hr : r.Idle) (hd : w.dev = .up) : w.Idle := by
  have hj := h.job hd
  obtain ⟨-, hb, hp, hu, hi, -⟩ := h.rest hd
  obtain ⟨h1, h2, h3, h4, h5, h6, h7, h8, h9⟩ := hr
  have hlim : w.streamLimit = r.streamLimit := by
    unfold State.streamLimit
    rw [hj]
    rfl
  refine ⟨h.flights, by rw [hj]; exact h2, by rw [hj]; exact h3, by rw [hj]; exact h4, hp.trans h5, ?_, by rw [hu]; exact h7, ?_, ?_⟩
  · unfold State.duoOn State.cfg at *; rw [hi]; exact h6
  · intro d hm
    rw [hj] at hm
    unfold State.plannedOf at *
    rw [hb, hj]
    exact h8 d hm
  · intro l hl; rw [hb]; exact h9 l (hlim ▸ hl)

/-- A change of phase brings an operating point alone. -/
theorem followPhase_runView (w : State) (n : Nat) : (w.followPhase n).runView = w.runView := by
  unfold State.followPhase
  split <;> rfl

/-- One round of the run at a boundary that is due. -/
theorem run_bound (h : w.Idle) (hb : w.job.bound = true) (n : Nat) (h1 : w.jobSt = .running) (h2 : w.dev = .up)
    (h3 : w.clk.stopped = false) (h4 : w.job.crPend = []) :
    State.run .beatEnd (n + 1) w = match w.boundary with
      | some t => State.run .beatEnd n (t.followPhase w.job.phase)
      | none => w.followPhase w.job.phase := by
  rw [run_event h1 h2 h3 h4 (nextDue_bound h hb) (fun l hl => ?_) rfl (dueBeat_idle h),
    passBeats_past (Nat.le_refl _)]
  · unfold State.happen
    cases w.boundary <;> rfl
  · rw [limit_idle h] at hl
    exact Nat.le_of_eq (Option.some.inj hl)

/-- The end of the beat of an idle job with a boundary due: the boundary is made where its tables are ready and no completion
record waits, and what it does not concern stands. -/
theorem runTo_beatEnd (h : w.Idle) (hb : w.job.bound = true) (hr : w.rcv.replayTo = none) {i : Nat} (hi : w.job.boundIdx = some i) :
    Stays w (w.runTo .beatEnd) ∧ (w.jobSt = .running → w.dev = .up → w.clk.stopped = false → w.job.crPend = [] →
      w.tablesReady (w.stepWord i) = true → (w.runTo .beatEnd).cast.touch = []) := by
  obtain ⟨n, hn⟩ : ∃ n, w.runFuel = n + 2 := ⟨w.runFuel - 2, by unfold State.runFuel; omega⟩
  unfold State.runTo
  rw [hn]
  by_cases hg : w.jobSt = .running ∧ w.dev = .up ∧ w.clk.stopped = false ∧ w.job.crPend = []
  · obtain ⟨h1, h2, h3, h4⟩ := hg
    have hbd : w.boundary = if w.tablesReady (w.stepWord i) then some (w.boundarySteps (some i) (w.stepWord i)) else none := by
      unfold State.boundary
      simp only [hb, hi, Bool.not_true, Bool.false_eq_true, if_false]
    rw [run_bound h hb (n + 1) h1 h2 h3 h4, hbd]
    by_cases ht : w.tablesReady (w.stepWord i) = true
    · have hs := ((Stays.refl h.flights).boundarySteps hr i (w.stepWord i)).congr (followPhase_runView _ w.job.phase)
      have hv := followPhase_runView (w.boundarySteps (some i) (w.stepWord i)) w.job.phase
      have hend := run_beatEnd n (fun _ hd => ⟨hs.idle h hd, by rw [State.job_of_runView hv]; rfl⟩)
      simp only [ht, if_true, hend]
      refine ⟨hs, fun _ _ _ _ _ => ?_⟩
      have hc : ((w.boundarySteps (some i) (w.stepWord i)).followPhase w.job.phase).cast = (w.boundarySteps (some i) (w.stepWord i)).cast :=
        congrArg Prod.fst hv
      rw [hc]
      rfl
    · simp only [ht]
      exact ⟨(Stays.refl h.flights).congr (followPhase_runView ..), fun _ _ _ _ hf => absurd hf (by simp)⟩
  · have hstop : State.run .beatEnd (n + 2) w = w := by
      rw [State.run, if_pos]
      refine Classical.byContradiction fun hc => ?_
      simp only [h.kill, not_or, Decidable.not_not, and_true] at hc
      exact hg ⟨hc.1, hc.2.1, by simpa using hc.2.2.1, hc.2.2.2⟩
    rw [hstop]
    exact ⟨Stays.refl h.flights, fun h1 h2 h3 h4 => absurd ⟨h1, h2, h3, h4⟩ hg⟩

end

/-! ### A command completes -/

section
variable {s : State} {f : Flight}

/-- With its one command in flight at its completion beat, the machine retires it next. -/
theorem nextDue_completing (h : s.Completing f) : s.nextDue = some ⟨s.drn.beat, 0, f.idx, .retire f.idx⟩ := by
  obtain ⟨⟨-, -, -, -, hstop, hbound, hkill, hover, hphase, hduo, -, -⟩, -, -, -, -, -, hdisp, -, hf, hi, hc⟩ := h
  unfold State.nextDue State.flightDues State.ownDues
  simp only [hf, hi, hc, hstop, hbound, hkill, hphase, duoDue_off hduo, List.filterMap_cons, List.filterMap_nil, if_true,
    Bool.false_eq_true, if_false, List.append_nil, List.singleton_append]
  exact (firstDue_append_later (e := ⟨s.drn.beat, 0, f.idx, .retire f.idx⟩)
    (streamDue_later hover (fun d hd => (hdisp d hd).2))).2

/-- It stands at that completion already. -/
theorem runTo_completing (h : s.Completing f) : s.runTo .completion = s := by
  have hnext := nextDue_completing h
  obtain ⟨⟨h1, h2, h0, h3, -, -, -, -, -, hduo, hmis, -⟩, -, hblock, -, -, -, -, hlim, hf, hi, -⟩ := h
  obtain ⟨n, hn⟩ : ∃ n, s.runFuel = n + 1 := ⟨s.runFuel - 1, by unfold State.runFuel; omega⟩
  simp only [State.retireBlocked, Bool.or_eq_false_iff, Bool.not_eq_false'] at hblock
  obtain ⟨⟨⟨hlacks, -⟩, -⟩, hflags⟩ := hblock
  have hdl : s.duoLimit = none := by simp [State.duoLimit, hduo, hmis]
  have hfl : s.flagLimit = none := by simp [State.flagLimit, hf, hi, hflags]
  have hll : s.landingLimit = none := by
    unfold State.landingLimit State.landingBeat
    simp [hf, hi, hlacks, optMin]
  have hlimit : optMin (s.goalBeat .completion) s.beatLimit = s.streamLimit := by
    unfold State.beatLimit State.goalBeat
    rw [hdl]
    cases s.streamLimit <;> rfl
  have hdue : s.dueBeat .completion = s.streamLimit := by
    unfold State.dueBeat
    rw [hfl, hll]
    cases s.streamLimit <;> rfl
  unfold State.runTo
  rw [hn, State.run]
  simp only [h0, h1, h2, h3, ne_eq, not_true, Bool.false_eq_true, or_self, false_and, if_false, hnext, hlimit, hdue]
  cases hs : s.streamLimit with
  | none => exact passBeats_past (Nat.le_refl _)
  | some l =>
    have hl := hlim l hs
    simp only [Nat.not_lt.2 (Nat.le_of_lt hl), Nat.not_le.2 hl, decide_false, Bool.or_self, Bool.false_eq_true, if_false, Goal.stopsAt, if_true]
    exact passBeats_past (Nat.le_refl _)

/-- COMMAND_COMPLETION without findings: the command retires, and the beat goes on to its end. -/
theorem exec_completing (h : s.Completing f) :
    exec (.commandCompletion []) s = .next (((s.retireOne f []).followPhase s.job.phase).runTo .beatEnd) := by
  have hnow : s.dueNow = some f := by
    unfold State.dueNow
    rw [nextDue_completing h]
    obtain ⟨-, -, hblock, -, -, -, -, -, hf, -⟩ := h
    simp [flight_alone hf, hblock]
  have hrun := runTo_completing h
  obtain ⟨⟨h1, h2, -⟩, -⟩ := h
  show execCommandCompletion [] s = _
  unfold execCommandCompletion
  simp only [hrun, h1, h2, hnow, and_self, if_true]

/-! ### A COMMIT retires -/

variable {h : Hdr}

/-- Without findings nothing of a command is spoiled. -/
theorem spoil_nil (t : State) (g : Flight) : t.spoil g [] = (t, g) := by
  unfold State.spoil; simp

/-- A COMMIT brings what it has. -/
theorem deliver_commit (hc : f.cmd = .commit h) (hd : f.dead = []) (t : State) : t.deliver f = (t, f) := by
  unfold State.deliver
  simp only [hc, hd, List.isEmpty_nil, Bool.not_true, Bool.false_eq_true, and_false, if_false]

/-- Between two states only records of what has happened differ, in the journal and the event log, and memories. -/
def OnlyRecords (t u : State) : Prop :=
  u = { t with job := { t.job with jrn := u.job.jrn }, cores := u.cores, hbm := u.hbm, evt := u.evt, msix := u.msix, sent := u.sent }

namespace OnlyRecords
variable {t u v : State}

theorem refl (t : State) : OnlyRecords t t := rfl

theorem trans (h : OnlyRecords t u) (k : OnlyRecords u v) : OnlyRecords t v := by
  unfold OnlyRecords at *
  rw [k, h]

theorem ite_of {p : Prop} [Decidable p] (hu : OnlyRecords t u) (hv : OnlyRecords t u → OnlyRecords t v) :
    OnlyRecords t (if p then v else u) := by
  split
  · exact hv hu
  · exact hu

theorem foldl {g : State → Nat → State} (hg : ∀ u e, OnlyRecords t u → OnlyRecords t (g u e)) (l : List Nat) (hu : OnlyRecords t u) :
    OnlyRecords t (l.foldl g u) := by
  induction l generalizing u with
  | nil => exact hu
  | cons e l ih => exact ih (hg u e hu)

theorem storeHbm (h : OnlyRecords t u) (a : Nat) (bs : List Byte) : OnlyRecords t (u.store ⟨.hbm, a, bs⟩) := h.trans rfl

theorem hput (h : OnlyRecords t u) (a n x : Nat) : OnlyRecords t (u.hput a n x) := h.storeHbm ..

theorem writeCast (h : OnlyRecords t u) : OnlyRecords t u.writeCast := h.storeHbm ..

theorem evCmd (h : OnlyRecords t u) (c l : Nat) (f : FieldRef) (i a b : Nat) : OnlyRecords t (u.evCmd c l f i a b) := by
  refine h.trans ?_
  unfold OnlyRecords
  rw [State.evCmd_eq]

theorem jAdd (h : OnlyRecords t u) (hr : t.rcv.replayTo = none) (e : JEntry) : OnlyRecords t (u.jAdd e) := by
  have hu : u.rcv.replayTo = none := by rw [h]; exact hr
  refine h.trans ?_
  unfold OnlyRecords
  rw [jAdd_fresh hu]

/-- The manifest lies in HBM (R301, R306, R308). -/
theorem commitLoad (t : State) : OnlyRecords t t.commitLoad := by
  unfold State.commitLoad
  refine ite_of (ite_of (refl t) fun hu => ?_) fun hu => ?_
  · exact foldl (fun u e hu => ite_of hu fun hu => hu.hput ..) _ hu
  · exact foldl (fun u e hu => ite_of hu fun hu => hu.hput ..) _ ((hu.hput ..).hput ..)

theorem abandonLoad (t : State) : OnlyRecords t t.abandonLoad := ite_of (refl t) fun hu => hu.hput ..

/-- The sticky flags of a command are gathered into its core, the step's journal and events (R113). -/
theorem gather (h : OnlyRecords t u) (g : Flight) : OnlyRecords t (u.gather g) := by
  have marked : ∀ (u : State) (j : Jrn), OnlyRecords t u → OnlyRecords t { u with job := { u.job with jrn := j } } :=
    fun u j hu => hu.trans rfl
  unfold State.gather
  split
  · exact h
  · refine foldl (fun u b hu => ite_of hu fun hu => hu.evCmd ..) _ (marked _ _ ?_)
    exact ite_of h fun hu => hu.trans rfl

end OnlyRecords

/-- A record is written to the ring with MSI-X vector 0 (R511). -/
theorem writeRec_eq (t : State) (r : CRec) :
    t.writeRec r = { t with
      job := { t.job with crProd := t.job.crProd + 1 }, host := (t.writeRec r).host, sent := (t.writeRec r).sent, msix := (t.writeRec r).msix } := by
  unfold State.writeRec
  dsimp only
  generalize t.job.desc.craddr + 32 * (t.job.crProd % 2 ^ t.job.desc.crlog2) = a
  generalize r.bytes (t.job.crProd / 2 ^ t.job.desc.crlog2 % 2 == 0) = bs
  rw [State.irq_eq]
  rfl

/-- With no record waiting, a record that falls due is written where the ring has room, and else waits (R233). -/
theorem putRec_alone {t : State} (hp : t.job.crPend = []) (r : CRec) :
    t.putRec r = if t.crRoom then t.writeRec r else { t with job := { t.job with crPend := [r] } } := by
  have hj : ({ t with job := { t.job with crPend := [] } } : State) = t := by rw [← hp]
  unfold State.putRec
  rw [hp]
  simp only [List.nil_append, List.length_singleton, State.flushRecs, hj]
  rfl

/-- A COMMIT counts its step and makes the boundary due (R291). -/
def Job.counted (j : Job) (i : Nat) (up : Bool) : Job :=
  { j with bound := true, boundIdx := some i, boundUpd := up, commits := j.commits + 1 }

/-- What the completion of the COMMIT `f` makes of the state, its records apart. -/
def State.counted (s : State) (f : Flight) : State :=
  { s with cast := s.cast.after (s.skipOf f.idx), job := s.job.counted f.idx (!s.skipOf f.idx) }

theorem OnlyRecords.switch {t u : State} (h : OnlyRecords t u) (b : Bool) :
    OnlyRecords { t with cast := t.cast.after b } { u with cast := u.cast.after b } := by
  unfold OnlyRecords at *
  rw [h]

theorem OnlyRecords.count {t u : State} (h : OnlyRecords t u) (i : Nat) (b : Bool) :
    OnlyRecords { t with job := t.job.counted i b } { u with job := u.job.counted i b } := by
  unfold OnlyRecords at *
  rw [h]
  rfl

theorem commitEnd_counted (hr : s.rcv.replayTo = none) (g : Flight) :
    OnlyRecords (s.counted g) (s.commitEnd g).1 ∧ ∃ a, (s.commitEnd g).2 = { g with aux := a } := by
  refine ⟨?_, _, rfl⟩
  unfold State.counted State.commitEnd
  cases s.skipOf g.idx
  · exact (((OnlyRecords.commitLoad s).switch false).writeCast.jAdd hr _).count g.idx true
  · exact (((OnlyRecords.abandonLoad s).switch true).writeCast.jAdd hr _).count g.idx false

/-- A retiring command is in flight no longer, and the hang counter starts anew (R406). -/
def State.departed (s : State) (i : Nat) : State :=
  { s with job := { s.job with flights := s.job.flights.filter (fun g => g.idx != i) }, rcv := { s.rcv with hang := 0, hung := false } }

/-- A retiring command as its record shows it: without flags where none are gathered (R115). -/
def Flight.shown (f : Flight) (gathers : Bool) : Flight := if gathers then f else { f with flags := 0 }

/-- What follows the control effect of a retirement without findings: flags, record and the ends of the job. -/
def State.retired (s : State) (f : Flight) : State :=
  let g := f.shown ((s.gather f).gathers f.idx)
  let t := (s.gather f).departed g.idx
  let u := if g.records && !t.repeated g.idx then t.putRec (t.recOf g) else t
  ((((u.noteBound g).silentError g Found.none).eccStop g Found.none).noteStop g).muteEnd g

/-- A command that brings all it has, writes nothing and meets no finding retires by its control effect alone. -/
theorem retireOne_plain (hd : s.deliver f = (s, f)) (ho : f.ordered [] = []) (hb : s.foundBad f = []) (he : f.eff = [])
    (hn : f.note faultKey = none) : s.retireOne f [] =
    State.retired (s.ctlEnd f).1 (s.ctlEnd f).2 := by
  have hw : ∀ p : Wr → Bool, f.eff.filter p = [] := fun p => by rw [he]; rfl
  have hh : s.healed f = s := by unfold State.healed; rw [hw]; rfl
  have hr : State.observeRes f [] (s, Found.none) = (s, Found.none) := by unfold State.observeRes; rfl
  have hk : Found.none.ckf = false := rfl
  unfold State.retireOne
  simp only [hd, ho, hb, List.append_nil, spoil_nil, List.any_nil, Bool.false_eq_true, if_false, hw, State.stores, List.foldl_nil, hh, hr,
    hn, hk, Option.isSome_none, Bool.or_false]
  rfl

theorem shown_keeps (f : Flight) (b : Bool) : (f.shown b).idx = f.idx ∧ (f.shown b).cmd = f.cmd ∧ (f.shown b).note = f.note := by
  unfold Flight.shown
  split
  · exact ⟨rfl, rfl, rfl⟩
  · exact ⟨rfl, rfl, rfl⟩

/-- Findings apart, the end of a COMMIT's retirement ends nothing of the job. -/
theorem settle_commit {t : State} {g : Flight} (hc : g.cmd = .commit h) (hn : g.note faultKey = none) (hd : t.duoOn = false) :
    ((((t.noteBound g).silentError g Found.none).eccStop g Found.none).noteStop g).muteEnd g = t := by
  have hb : t.noteBound g = t := by unfold State.noteBound; simp [hd]
  rw [hb]
  unfold State.muteEnd State.noteStop
  simp only [hc, hn]
  rfl

/-- A COMMIT always leaves a record, and its retirement ends nothing of the job (R233). -/
theorem retired_commit {t : State} {g : Flight} (hc : g.cmd = .commit h) (hn : g.note faultKey = none) (hd : (t.gather g).duoOn = false)
    (hr : (t.gather g).rcv.replayTo = none) (hp : (t.gather g).job.crPend = []) :
    ∃ r, t.retired g = ((t.gather g).departed g.idx).putRec r := by
  obtain ⟨hi, hcmd, hnote⟩ := shown_keeps g ((t.gather g).gathers g.idx)
  have hrec : (g.shown ((t.gather g).gathers g.idx)).records = true := by
    unfold Flight.records; rw [hcmd, hc]; simp [Cmd.alwaysRec]
  have hrep : ((t.gather g).departed g.idx).repeated g.idx = false := by
    unfold State.repeated State.departed; rw [hr]
  have hduo : ∀ r, (((t.gather g).departed g.idx).putRec r).duoOn = false := by
    intro r
    rw [putRec_alone (t := (t.gather g).departed g.idx) hp]
    split
    · rw [writeRec_eq]; exact hd
    · exact hd
  unfold State.retired
  simp only [hi, hrec, hrep, Bool.not_false, Bool.and_self, if_true]
  exact ⟨_, settle_commit (hcmd.trans hc) (by rw [hnote]; exact hn) (hduo _)⟩

/-- The state that a retiring COMMIT leaves, records apart. -/
def State.committed (s : State) (f : Flight) : State :=
  { s.counted f with
    job := { (s.counted f).job with flights := [] }
    rcv := { s.rcv with hang := 0, hung := false } }

theorem departed_counted {t : State} (hf : s.job.flights = [f]) (h : OnlyRecords (s.counted f) t) :
    OnlyRecords (s.committed f) (t.departed f.idx) := by
  have hfl : t.job.flights.filter (fun x => x.idx != f.idx) = [] := by
    rw [h]
    show s.job.flights.filter _ = []
    rw [hf]
    simp
  unfold State.departed OnlyRecords at *
  rw [hfl]
  dsimp only
  rw [h]
  rfl

/-- A COMMIT's retirement: its effect and records of it, its completion record last. -/
theorem retireOne_commit (hs : s.Completing f) (hc : f.cmd = .commit h) (heff : f.eff = []) :
    ∃ t r, OnlyRecords (s.committed f) t ∧ s.retireOne f [] = t.putRec r := by
  obtain ⟨⟨-, -, -, hpend, -, -, -, -, -, hduo, -, hreplay⟩, -, -, hnote, hdead, hbad, -, -, hf, -, -⟩ := hs
  have hord : f.ordered [] = [] := by unfold Flight.ordered; rw [hc]; rfl
  have hctl : s.ctlEnd f = s.commitEnd f := by unfold State.ctlEnd; rw [hc]
  obtain ⟨hcount, a, haux⟩ := commitEnd_counted hreplay f
  have hg := hcount.gather { f with aux := a }
  obtain ⟨r, hr⟩ := retired_commit (t := (s.commitEnd f).1) (g := { f with aux := a }) hc hnote (by rw [hg]; exact hduo)
    (by rw [hg]; exact hreplay) (by rw [hg]; exact hpend)
  refine ⟨_, r, departed_counted hf hg, ?_⟩
  rw [retireOne_plain (deliver_commit hc hdead s) hord hbad heff hnote, hctl, haux, hr]

end

section
variable {s : State} {f : Flight} {h : Hdr}

/-- When a COMMIT has retired, nothing but its boundary falls due at its beat. -/
theorem idle_committed (hs : s.Completing f) : (s.committed f).Idle := by
  obtain ⟨⟨-, -, -, -, hstop, -, hkill, hover, hphase, hduo, hmis, -⟩, -, -, -, -, -, hdisp, hlim, hf, hi, -⟩ := hs
  have hwaits : s.job.stepWaits = false := by unfold Job.stepWaits; simp [hf, hi]
  have hstream : (s.committed f).streamLimit = s.streamLimit := by
    have hw : (s.committed f).job.stepWaits = false := rfl
    unfold State.streamLimit
    dsimp only
    rw [hw, hwaits]
    rfl
  exact ⟨rfl, hkill, hstop, hover, hphase, hduo, hmis, fun d hd => (hdisp d hd).2, fun l hl => hlim l (hstream ▸ hl)⟩

/-- A completion record that falls due changes the ring's position, what waits for it, and what the host sees. -/
theorem putRec_eq {t : State} (hp : t.job.crPend = []) (x : CRec) : ∃ n p ho se ms,
    t.putRec x = { t with job := { t.job with crProd := n, crPend := p }, host := ho, sent := se, msix := ms } ∧
      (t.crRoom = true → p = []) := by
  rw [putRec_alone hp]
  split
  · exact ⟨_, [], _, _, _, by rw [writeRec_eq, ← hp], fun _ => rfl⟩
  · rename_i hroom
    exact ⟨_, [x], _, _, _, rfl, fun hr => absurd hr hroom⟩

/-- At the end of the beat of a COMMIT's completion: what it made of the Cast and the count stands, and with room for its
record and its tables ready its boundary is made. -/
theorem exec_commit_completes (hs : s.Completing f) (hc : f.cmd = .commit h) (heff : f.eff = []) :
    ∃ t, exec (.commandCompletion []) s = .next t ∧ Stays (s.committed f) t ∧
      (s.crRoom = true → s.tablesReady (s.stepWord f.idx) = true → t.cast.touch = []) := by
  obtain ⟨v, x, hv, hret⟩ := retireOne_commit hs hc heff
  have hexec := exec_completing hs
  have hidle := idle_committed hs
  obtain ⟨⟨hrun, hup, hclk, hpend, -, -, -, -, -, -, -, hreplay⟩, -⟩ := hs
  obtain ⟨n, p, ho, se, ms, hput, hroom⟩ := putRec_eq (t := v) (by rw [hv]; exact hpend) x
  rw [hput] at hret
  unfold OnlyRecords at hv
  generalize v.job.jrn = j, v.cores = cs, v.hbm = m, v.evt = ev, v.sent = sv, v.msix = mv at hv
  subst hv
  generalize hu : s.retireOne f [] = u at hret hexec
  have hk : Stays (s.committed f) u := by
    rw [hret]
    exact ⟨rfl, rfl, fun _ => rfl, fun hd => ⟨hd, rfl, rfl, rfl, rfl, rfl⟩⟩
  have hphase : u.followPhase s.job.phase = u := by
    unfold State.followPhase
    rw [if_pos (Or.inl (by rw [hret]; rfl))]
  have hi : u.Idle := hk.idle hidle (by rw [hret]; exact hup)
  obtain ⟨hend, htouch⟩ := runTo_beatEnd hi (i := f.idx) (by rw [hret]; rfl) (by rw [hret]; exact hreplay) (by rw [hret]; rfl)
  rw [hphase] at hexec
  refine ⟨_, hexec, hk.trans hend, fun hr ht => ?_⟩
  refine htouch (by rw [hret]; exact hrun) (by rw [hret]; exact hup) (by rw [hret]; exact hclk) ?_ ?_
  · rw [hret]
    exact hroom hr
  · unfold State.tablesReady State.lutReady at ht ⊢
    rw [hi.flights, hret]
    simp only [Bool.and_eq_true] at ht ⊢
    exact ⟨ht.1, rfl⟩

end

/-! ### A COMMIT issues -/

section
variable {s : State} {d : Disp} {h : Hdr}

/-- A COMMIT is planned as itself (R259). -/
theorem planFlight_cmd_commit (hc : d.cmd = .commit h) : (s.planFlight d).cmd = .commit h := by
  rw [planFlight_cmd, hc]; rfl

theorem gone_cmd_commit (hc : d.cmd = .commit h) : (s.gone d).cmd = .commit h := by
  rw [gone_cmd, hc]; rfl

theorem planFlight_queue_commit (hc : d.cmd = .commit h) : (s.planFlight d).queue = .ctl := by
  show ((s.dueState d).issuesAs d.cmd).queue = .ctl
  rw [hc]; rfl

/-- A COMMIT is a control command: it loses no beat to banks and completes 16 beats after its issue (R182, R185). -/
theorem endsAt_commit (hc : d.cmd = .commit h) : s.endsAt d = s.plannedOf d + 16 := by
  have hlat : s.latAt d = 16 := by
    unfold State.latAt; rw [planFlight_cmd_commit hc]; rfl
  have hloss : ((s.planState d).bankLoss (s.planFlight d) (s.latAt d)).total = 0 := by
    unfold State.bankLoss; rw [planFlight_queue_commit hc]; rfl
  unfold State.endsAt
  rw [hlat] at hloss ⊢
  rw [hloss]

theorem kept_nil (t : State) (f : Flight) : t.kept f [] = [] := by
  unfold State.kept; simp only [List.filter_nil, ite_self]

/-- A COMMIT writes nothing and awaits nothing from outside. -/
theorem gone_eff_commit (hc : d.cmd = .commit h) : (s.gone d).eff = [] ∧ (s.gone d).need = 0 := by
  have hx := planFlight_cmd_commit (s := s) hc
  unfold State.gone State.launch
  constructor
  · simp only [hx]; exact kept_nil _ _
  · simp only [hx]; rfl

/-- The state after the issue of a COMMIT alone: it is in flight, with the entry of its pass in the journal. -/
theorem goneOut_commit (ha : s.Alone d) (hc : d.cmd = .commit h) :
    s.goneOut d = (s.goneState d).notePass (s.gone d) := by
  obtain ⟨-, -, hr, j, -, hj⟩ := goneState_fields ha
  obtain ⟨es, he⟩ := notePass_fresh hr (s.gone d)
  have hq : (s.gone d).queue = .ctl := planFlight_queue_commit hc
  have hi : (s.goneState d).ctlIssue (s.gone d) (s.plannedOf d) = s.goneState d := by
    unfold State.ctlIssue; rw [gone_cmd_commit hc]
  have hx : ∀ t : State, t.enterExchange (s.planFlight d) = t := by
    intro t; unfold State.enterExchange; rw [planFlight_cmd_commit hc]
  rw [goneOut_eq ha]
  simp only [hq, gone_cmd_commit hc, Cmd.isEnd, Bool.false_eq_true, if_false, hi, hx]
  rw [he]
  unfold State.followPhase
  rw [if_pos (Or.inl (by rw [hj]))]

/-- A COMMIT alone that passes its checks issues at its planned beat. -/
theorem exec_commit_issues (ha : s.Alone d) (hp : s.Passes d) (hc : d.cmd = .commit h)
    (hb : (s.planState d).commitBad (s.planFlight d) = false) :
    exec (.commit h) s = .next (s.goneOut d) ∧ s.Issued (s.goneOut d) d (s.gone d) := by
  obtain ⟨gbeat, gphase, gr, j, -, hj⟩ := goneState_fields ha
  have ht := goneState_time ha
  obtain ⟨es, he⟩ := notePass_fresh gr (s.gone d)
  have hc' := goneOut_commit ha hc
  obtain ⟨-, -, -, -, hstop, hbound, hkill, -⟩ := ha.1
  have hx := planFlight_cmd_commit (s := s) hc
  have hjob : (s.goneOut d).job = { (s.goneState d).job with jrn := (s.goneOut d).job.jrn } := by rw [hc', he]
  have hrest : s.goneOut d = { s.goneState d with job := (s.goneOut d).job } := by rw [hc', he]
  rw [hj] at hjob
  have hbeat : (s.goneOut d).drn.beat = s.plannedOf d := by rw [hrest]; exact gbeat
  refine ⟨exec_gone ha hp (by rw [hc]; rfl) (by rw [hx]; simp) (by rw [hx]; simp) hb ?_ (f := s.gone d) (by rw [hjob])
    ⟨rfl, rfl, rfl, ?_⟩ ?_ hbeat ?_ ?_ ?_, ?_⟩
  · unfold State.issueBlocked; rw [hx]
  · rw [gone_compl, endsAt_commit hc]; omega
  · rw [hjob]; exact ⟨rfl, hkill, hbound, hstop, rfl, rfl⟩
  · rw [hrest]; intro e hpe; exact absurd (gphase.symm.trans hpe) (by simp)
  · rw [hrest, ht]
  · rw [hrest, ht]
  · refine ⟨hbeat, by rw [hjob], by rw [hjob], rfl, ?_, rfl, rfl, rfl, ?_, ?_, ?_⟩
    · rw [gone_cmd_commit hc, hc]
    all_goals rw [hrest, ht]

end

/-! ### The obligation -/

/-- Settles O20: a COMMIT is a control command of 16 beats that issues with neither effect nor wait, and its retirement, the
last event at its beat but the boundary that it makes due, switches the Cast on UPDATE alone; the boundary's steps keep the
Cast but for TOUCH. -/
theorem commitSwitchesCast : Obligations.CommitSwitchesCast := by
  refine ⟨fun s d h ha hp hc hb => ?_, fun s f h hs hc _ heff => ?_⟩
  · obtain ⟨hexec, hissued⟩ := exec_commit_issues ha hp hc hb
    obtain ⟨hg, hn⟩ := gone_eff_commit (s := s) hc
    exact ⟨_, _, hexec, hissued, endsAt_commit hc, hg, hn⟩
  · obtain ⟨t, hexec, hk, htouch⟩ := exec_commit_completes hs hc heff
    obtain ⟨hp, hside, hsw⟩ := s.cast.after_eq (s.skipOf f.idx)
    have hcast := hk.cast
    refine ⟨t, hexec, hk.flights, hk.commits, ?_, fun p => ?_, htouch, ?_⟩
    · rw [hcast]; exact hp
    · rw [hcast]; exact hside p
    · rw [hcast]; exact hsw

end Sys2Proof.Machine

namespace Sys2Proof.Machine

/-! ### The job ring's doorbell (R510) -/

/-- The indices that R510 lets a doorbell set: `p` is at most the ring's size ahead of the consumer index and not behind
the producer index. -/
def Ring.Admits (r : Ring) (p : Half) : Prop :=
  r.log2 ≠ 0 ∧ (p - r.cons).toNat ≤ 2 ^ r.log2 ∧ (r.prod - r.cons).toNat ≤ (p - r.cons).toNat

theorem Ring.not_admits_iff {r : Ring} {p : Half} : ¬ r.Admits p ↔
    r.log2 = 0 ∨ 2 ^ r.log2 < (p - r.cons).toNat ∨ (p - r.cons).toNat < (r.prod - r.cons).toNat := by
  unfold Ring.Admits
  omega

/-- PRIO of the descriptors that a doorbell for `p` announces, 0 where the host gave none. -/
def Ring.announced (r : Ring) (p : Half) (prios : List (BitVec 4)) : List (BitVec 4) :=
  (prios ++ List.replicate (p - r.prod).toNat 0).take (p - r.prod).toNat

/-- The ring with the descriptors up to `p` announced. -/
def Ring.announce (r : Ring) (p : Half) (prios : List (BitVec 4)) : Ring :=
  { r with prod := p, waiting := r.waiting ++ r.announced p prios }

/-- One of the descriptors `new` asks for the running job's place (R222, R413): no job is parked, and its PRIO is higher. -/
def State.Outranked (s : State) (new : List (BitVec 4)) : Prop :=
  s.live = true ∧ s.dev = .up ∧ s.rcv.parked = none ∧ ∃ x ∈ new, s.job.desc.prio < x.toNat

section
variable {s : State} {v : Word} {prios : List (BitVec 4)}

theorem exec_jobDoorbell_recov (h : s.pln.recov = true) : exec (.jobDoorbell v prios) s = .next s := by
  show execJobDoorbell v prios s = _
  unfold execJobDoorbell
  rw [if_pos h]

theorem exec_jobDoorbell_ignored (h : s.pln.recov = false) (hp : ¬ s.ring.Admits (v.truncate 16)) :
    exec (.jobDoorbell v prios) s = .next (s.ignored 1 0x10000C) := by
  show execJobDoorbell v prios s = _
  unfold execJobDoorbell
  rw [if_neg (by simp [h]), if_pos (Ring.not_admits_iff.1 hp)]

/-- A doorbell that R510 admits announces its descriptors, and the model's test decides whether the job is asked for a
pre-emption. -/
theorem exec_jobDoorbell_admitted (h : s.pln.recov = false) (hp : s.ring.Admits (v.truncate 16)) :
    let t := { s with ring := s.ring.announce (v.truncate 16) prios }
    exec (.jobDoorbell v prios) s = .next
      (if s.live && s.dev == .up && (s.ring.announced (v.truncate 16) prios).any (fun x => decide (s.job.desc.prio < x.toNat)) &&
        s.rcv.parked.isNone then t.askPreempt else t) := by
  show execJobDoorbell v prios s = _
  unfold execJobDoorbell
  rw [if_neg (by simp [h]), if_neg (fun hb => Ring.not_admits_iff.2 hb hp)]
  rfl

/-- The model's test is that a new descriptor outranks the job. -/
theorem outranked_iff {new : List (BitVec 4)} :
    (s.live && s.dev == .up && new.any (fun x => decide (s.job.desc.prio < x.toNat)) && s.rcv.parked.isNone) = true ↔
      s.Outranked new := by
  simp only [State.Outranked, Bool.and_eq_true, beq_iff_eq, List.any_eq_true, decide_eq_true_eq, Option.isNone_iff_eq_none]
  exact ⟨fun ⟨⟨⟨hlive, hdev⟩, hprio⟩, hparked⟩ => ⟨hlive, hdev, hparked, hprio⟩,
    fun ⟨hlive, hdev, hparked, hprio⟩ => ⟨⟨⟨hlive, hdev⟩, hprio⟩, hparked⟩⟩

theorem exec_jobDoorbell_asks (h : s.pln.recov = false) (hp : s.ring.Admits (v.truncate 16))
    (ho : s.Outranked (s.ring.announced (v.truncate 16) prios)) :
    exec (.jobDoorbell v prios) s = .next ({ s with ring := s.ring.announce (v.truncate 16) prios } : State).askPreempt := by
  rw [exec_jobDoorbell_admitted h hp, if_pos (outranked_iff.2 ho)]

theorem exec_jobDoorbell_announces (h : s.pln.recov = false) (hp : s.ring.Admits (v.truncate 16))
    (ho : ¬ s.Outranked (s.ring.announced (v.truncate 16) prios)) :
    exec (.jobDoorbell v prios) s = .next { s with ring := s.ring.announce (v.truncate 16) prios } := by
  rw [exec_jobDoorbell_admitted h hp, if_neg (mt outranked_iff.1 ho)]

end

/-! ### The descriptor that a load reads (R205, R510) -/

section
variable {s : State} {desc : List Byte}

/-- A module that is EMPTY with a descriptor in the ring reads it, unless a job is parked that a descriptor has followed
already (R419). -/
def State.MayLoad (s : State) : Prop :=
  s.jobSt = .empty ∧ s.dev = .up ∧ s.ring.cons ≠ s.ring.prod ∧ s.ring.log2 ≠ 0 ∧ ∀ p, s.rcv.parked = some p → p.served = false

/-- JOB_LOAD_BEGIN takes the descriptor at the consumer index: the job is the one that it describes, and the index moves
on by one. -/
theorem exec_jobLoadBegin_loads (hs : s.MayLoad) (hl : desc.length = 256) :
    ∃ t, exec (.jobLoadBegin desc) s = .next t ∧ t.ring.cons = s.ring.cons + 1 ∧ t.job = s.newJob desc := by
  obtain ⟨hjob, hdev, hwaits, hsize, hparked⟩ := hs
  show ∃ t, execJobLoadBegin desc s = _ ∧ _
  unfold execJobLoadBegin
  refine ⟨_, if_pos ⟨hjob, hdev, hwaits, hsize, ?_, hl⟩, by rw [State.setJob_ring], by rw [State.setJob_job]⟩
  cases hp : s.rcv.parked with
  | none => rfl
  | some p => simp [hparked p hp]

end

/-! ### Writes of base and size (R510) -/

/-- The ring register's offset in BAR0 (R204). -/
def ringOffset : RingReg → Nat
  | .baseLo => 0x100000
  | .baseHi => 0x100004
  | .size => 0x100008

/-- The ring rests: no job is loaded or parked and no descriptor waits. -/
def State.RingRests (s : State) : Prop := s.jobSt = .empty ∧ s.rcv.parked = none ∧ s.ring.cons = s.ring.prod

/-- A ring of no announced descriptors, with one of its registers written. -/
def Ring.rewritten (r : Ring) (reg : RingReg) (v : Word) : Ring :=
  let e := { r with cons := 0, prod := 0, waiting := [] }
  match reg with
  | .baseLo => { e with baseLo := v }
  | .baseHi => { e with baseHi := v }
  | .size => { e with log2 := v.toNat % 16 }

section
variable {s : State} {v : Word}

theorem exec_jobRingRegisterWrite_recov (h : s.pln.recov = true) (reg : RingReg) :
    exec (.jobRingRegisterWrite reg v) s = .next s := by
  show execJobRingRegisterWrite reg v s = _
  unfold execJobRingRegisterWrite
  exact if_pos h

theorem exec_jobRingRegisterWrite_rests (h : s.pln.recov = false) (hr : s.RingRests) (reg : RingReg) :
    exec (.jobRingRegisterWrite reg v) s = .next { s with ring := s.ring.rewritten reg v } := by
  obtain ⟨hjob, hparked, hidx⟩ := hr
  show execJobRingRegisterWrite reg v s = _
  unfold execJobRingRegisterWrite
  rw [if_neg (by simp [h]), if_pos ⟨hjob, by rw [hparked]; rfl, hidx⟩]
  cases reg <;> rfl

theorem exec_jobRingRegisterWrite_ignored (h : s.pln.recov = false) (hr : ¬ s.RingRests) (reg : RingReg) :
    exec (.jobRingRegisterWrite reg v) s = .next (s.ignored 2 (ringOffset reg)) := by
  have hn : ¬ (s.jobSt = .empty ∧ s.rcv.parked.isNone ∧ s.ring.cons = s.ring.prod) := by
    rwa [Option.isNone_iff_eq_none]
  show execJobRingRegisterWrite reg v s = _
  unfold execJobRingRegisterWrite
  rw [if_neg (by simp [h]), if_neg hn]
  cases reg <;> rfl

end

/-! ### The obligation -/

/-- Settles O28: a doorbell by whether R510 admits its index and whether a new descriptor outranks the job (R222), a load by
the job that it makes of the descriptor at the consumer index, and a write of base or size by whether the ring rests; in
recovery mode (R484, log 93) each leaves the state as it is. -/
theorem jobRing : Obligations.JobRing := by
  refine ⟨fun s v prios => ⟨fun h hsize hahead hback => ?_, fun h hbad => ?_, exec_jobDoorbell_recov⟩,
    fun s desc hjob hdev hwaits hsize hl hparked => ?_, fun s reg v => ⟨fun h => ?_, fun h hr => ?_, fun h hr => ?_⟩⟩
  · have hp : s.ring.Admits (v.truncate 16) := ⟨hsize, hahead, hback⟩
    exact ⟨exec_jobDoorbell_asks h hp, exec_jobDoorbell_announces h hp⟩
  · exact exec_jobDoorbell_ignored h (Ring.not_admits_iff.2 hbad)
  · obtain ⟨t, hexec, hcons, hnew⟩ := exec_jobLoadBegin_loads ⟨hjob, hdev, hwaits, hsize, hparked⟩ hl
    exact ⟨t, hexec, hcons, by rw [hnew]; rfl⟩
  · exact exec_jobRingRegisterWrite_recov h reg
  · rw [exec_jobRingRegisterWrite_rests h hr]
    cases reg <;> rfl
  · rw [exec_jobRingRegisterWrite_ignored h hr]
    cases reg <;> rfl

end Sys2Proof.Machine
